-- ==== Sys2Proof/Word.lean ====
section
/-!
DEFINITION. The words of SC-ED25519: bytes, 32-bit words, field elements and points.

The arithmetic of the field unit is NOT here (Machine/Field.lean); only the types and the reduction to the canonical
representative.
-/

namespace Sys2Proof

/-- One byte. -/
abbrev Byte := BitVec 8

/-- One 32-bit word: a command word, MSGLEN, STATUS, the data of a host access. -/
abbrev Word := BitVec 32

/-- The field modulus p = 2^255 - 19 (10_state.md R33). -/
def primeP : Nat := 0x7fffffffffffffffffffffffffffffffffffffffffffffffffffffffffffffed

theorem primeP_eq : primeP = 2 ^ 255 - 19 := by decide

theorem primeP_pos : 0 < primeP := by decide

/-- A field element: an integer in [0, p), always canonical (10_state.md R21). -/
abbrev Fe := Fin primeP

/-- The least non-negative residue mod p of an exact integer result (40_field.md R133). -/
def Fe.ofNat (n : Nat) : Fe := ⟨n % primeP, Nat.mod_lt _ primeP_pos⟩

/-- A point: four field elements (X, Y, T, Z) that stand for the affine point (X/Z, Y/Z) (10_state.md R22). -/
structure Point where
  X : Fe
  Y : Fe
  T : Fe
  Z : Fe
  deriving DecidableEq, Repr

/-- The neutral (0, 1, 0, 1) (10_state.md R33). -/
def Point.neutral : Point := ⟨Fe.ofNat 0, Fe.ofNat 1, Fe.ofNat 0, Fe.ofNat 1⟩

end Sys2Proof
end

