-- ==== Sys2Proof/Syntax.lean ====
section
/-!
DEFINITION. The commands of SC-ED25519 as syntax: one constructor per row of the opcode table (30_encoding.md R95), operands
in the assembler's order, destinations first (R99).
-/

namespace Sys2Proof

/-- A field register F0 to F7 (10_state.md R21). -/
abbrev FReg := Fin 8

/-- A point register P0 to P3 (10_state.md R22). -/
abbrev PReg := Fin 4

/-- A slot of the IO buffer, 0 to 3 (10_state.md R26). -/
abbrev Slot := Fin 4

/-- The width selector w: `narrow` is w = 0 (32 bytes, 256 ladder steps), `wide` is w = 1 (64 bytes, 512 steps) (R94). -/
inductive Width where
  | narrow
  | wide
  deriving DecidableEq, Repr

/-- The constant number c of FLDC (R94). -/
inductive FieldConst where
  | zero
  | one
  | d
  | sqrtm1
  deriving DecidableEq, Repr

/-- The constant number c of PLDC (R94). -/
inductive PointConst where
  | neutral
  | base
  deriving DecidableEq, Repr

/-- A command (30_encoding.md R95, R99). -/
inductive Instr where
  | fadd (d a b : FReg)
  | fsub (d a b : FReg)
  | fneg (d a : FReg)
  | fmul (d a b : FReg)
  | fsqr (d a : FReg)
  | finv (d a : FReg)
  | fexp (d a : FReg)
  /-- `FSQRT Fd, Fe, Fa`: root, negated root, radicand. -/
  | fsqrt (d e a : FReg)
  | feq (a b : FReg)
  | fpar (a : FReg)
  | fmov (d a : FReg)
  | fldc (d : FReg) (c : FieldConst)
  | fld (d : FReg) (sl : Slot)
  | fst (a : FReg) (sl : Slot)
  | padd (d a b : PReg)
  | pdbl (d a : PReg)
  | pneg (d a : PReg)
  | peq (a b : PReg)
  | pmov (d a : PReg)
  | pldc (d : PReg) (c : PointConst)
  /-- `PAFF Fd, Fe, Pa`: x, y, point. -/
  | paff (d e : FReg) (a : PReg)
  /-- `PFAF Pd, Fa, Fb`: point, x, y. -/
  | pfaf (d : PReg) (a b : FReg)
  | pdec (d : PReg) (sl : Slot)
  | penc (a : PReg) (sl : Slot)
  | smul (d a : PReg) (w : Width)
  | kld (sl : Slot) (w : Width)
  | kst (sl : Slot) (w : Width)
  | xld (sl : Slot)
  | xst (sl : Slot)
  | derive
  | sign
  | signp
  | verify
  | clr
  deriving DecidableEq, Repr

end Sys2Proof
end

