-- ==== Sys2Proof/WellFormed.lean ====
section
/-!
DEFINITION. Which command terms are legal: the extra constraints of the opcode map (30_encoding.md R95, R96 e and f). The
ranges of register numbers, slots and constants (R96 c and d) are in the types of Syntax.lean.
-/

namespace Sys2Proof

/-- A 64-byte transfer from slot `sl` stays inside IO (R96 f). -/
def Slot.pairFits (sl : Slot) : Bool := sl.val ≤ 2

/-- The extra constraint of the command's row (R95). -/
def Instr.wf : Instr → Bool
  | .fadd _ _ _ => true
  | .fsub _ _ _ => true
  | .fneg _ _ => true
  | .fmul _ _ _ => true
  | .fsqr _ _ => true
  | .finv _ _ => true
  | .fexp _ _ => true
  | .fsqrt d e _ => d ≠ e
  | .feq _ _ => true
  | .fpar _ => true
  | .fmov _ _ => true
  | .fldc _ _ => true
  | .fld _ _ => true
  | .fst _ _ => true
  | .padd _ _ _ => true
  | .pdbl _ _ => true
  | .pneg _ _ => true
  | .peq _ _ => true
  | .pmov _ _ => true
  | .pldc _ _ => true
  | .paff d e _ => d ≠ e
  | .pfaf _ _ _ => true
  | .pdec _ _ => true
  | .penc _ _ => true
  | .smul _ _ _ => true
  | .kld sl w => w = .narrow || sl.pairFits
  | .kst sl w => w = .narrow || sl.pairFits
  | .xld sl => sl.pairFits
  | .xst sl => sl.pairFits
  | .derive => true
  | .sign => true
  | .signp => true
  | .verify => true
  | .clr => true

end Sys2Proof
end

