-- ==== Sys2Proof/Decode.lean ====
section
/-!
DEFINITION. Decoding a command word (30_encoding.md R90 to R96, R101), total on all 2^32 words and rejecting by name, and after
it the encoder, written from the field layout and the formats (R91, R92, R99).
-/

namespace Sys2Proof

/-! ### The opcode map (R95) -/

/-- The 34 rows of the opcode map, by mnemonic. -/
inductive Opcode where
  | FADD
  | FSUB
  | FNEG
  | FMUL
  | FSQR
  | FINV
  | FEXP
  | FSQRT
  | FEQ
  | FPAR
  | FMOV
  | FLDC
  | FLD
  | FST
  | PADD
  | PDBL
  | PNEG
  | PEQ
  | PMOV
  | PLDC
  | PAFF
  | PFAF
  | PDEC
  | PENC
  | SMUL
  | KLD
  | KST
  | XLD
  | XST
  | DERIVE
  | SIGN
  | SIGNP
  | VERIFY
  | CLR
  deriving DecidableEq, Repr

/-- Every row of the opcode map, in the table's order. -/
def Opcode.all : List Opcode :=
    [.FADD, .FSUB, .FNEG, .FMUL, .FSQR, .FINV, .FEXP, .FSQRT, .FEQ]
  ++ [.FPAR, .FMOV, .FLDC, .FLD, .FST, .PADD, .PDBL, .PNEG, .PEQ]
  ++ [.PMOV, .PLDC, .PAFF, .PFAF, .PDEC, .PENC, .SMUL, .KLD, .KST]
  ++ [.XLD, .XST, .DERIVE, .SIGN, .SIGNP, .VERIFY, .CLR]

/-- The row's `match` word (R95). -/
def Opcode.matchBits : Opcode → Word
  | .FADD => 0x10000000
  | .FSUB => 0x11000000
  | .FNEG => 0x12000000
  | .FMUL => 0x13000000
  | .FSQR => 0x14000000
  | .FINV => 0x15000000
  | .FEXP => 0x16000000
  | .FSQRT => 0x17000000
  | .FEQ => 0x18000000
  | .FPAR => 0x19000000
  | .FMOV => 0x1A000000
  | .FLDC => 0x1B000000
  | .FLD => 0x1C000000
  | .FST => 0x1D000000
  | .PADD => 0x20000000
  | .PDBL => 0x21000000
  | .PNEG => 0x22000000
  | .PEQ => 0x23000000
  | .PMOV => 0x24000000
  | .PLDC => 0x25000000
  | .PAFF => 0x26000000
  | .PFAF => 0x27000000
  | .PDEC => 0x28000000
  | .PENC => 0x29000000
  | .SMUL => 0x2A000000
  | .KLD => 0x30000000
  | .KST => 0x31000000
  | .XLD => 0x32000000
  | .XST => 0x33000000
  | .DERIVE => 0x40000000
  | .SIGN => 0x41000000
  | .SIGNP => 0x42000000
  | .VERIFY => 0x43000000
  | .CLR => 0x44000000

/-- The row's `mask` word (R95): the opcode, every unused field, and the high bits of each index and immediate that must be
0. -/
def Opcode.mask : Opcode → Word
  | .FADD => 0xFF888FFF
  | .FSUB => 0xFF888FFF
  | .FNEG => 0xFF88FFFF
  | .FMUL => 0xFF888FFF
  | .FSQR => 0xFF88FFFF
  | .FINV => 0xFF88FFFF
  | .FEXP => 0xFF88FFFF
  | .FSQRT => 0xFF88F8FF
  | .FEQ => 0xFFF88FFF
  | .FPAR => 0xFFF8FFFF
  | .FMOV => 0xFF88FFFF
  | .FLDC => 0xFF8FFFFC
  | .FLD => 0xFF8FFFFC
  | .FST => 0xFFF8FFFC
  | .PADD => 0xFFCCCFFF
  | .PDBL => 0xFFCCFFFF
  | .PNEG => 0xFFCCFFFF
  | .PEQ => 0xFFFCCFFF
  | .PMOV => 0xFFCCFFFF
  | .PLDC => 0xFFCFFFFE
  | .PAFF => 0xFF8CF8FF
  | .PFAF => 0xFFC88FFF
  | .PDEC => 0xFFCFFFFC
  | .PENC => 0xFFFCFFFC
  | .SMUL => 0xFFCCFFFE
  | .KLD => 0xFFFFFFEC
  | .KST => 0xFFFFFFEC
  | .XLD => 0xFFFFFFFC
  | .XST => 0xFFFFFFFC
  | .DERIVE => 0xFFFFFFFF
  | .SIGN => 0xFFFFFFFF
  | .SIGNP => 0xFFFFFFFF
  | .VERIFY => 0xFFFFFFFF
  | .CLR => 0xFFFFFFFF

/-- The row's opcode number, `match[31:24]` (R91, R95). -/
def Opcode.code (o : Opcode) : Byte := o.matchBits.extractLsb' 24 8

/-- The row of an opcode number, if there is one (R101). -/
def Opcode.ofCode (c : Byte) : Option Opcode := Opcode.all.find? fun o => o.code = c

/-! ### Operand fields (R91, R93, R94) -/

/-- The width selector of a bit (R94). -/
def Width.ofBit (b : Bool) : Width := if b then .wide else .narrow

/-- The bit of a width selector (R94). -/
def Width.bit : Width → Nat
  | .narrow => 0
  | .wide => 1

/-- The constant of FLDC from `imm[1:0]` (R94). -/
def FieldConst.ofCode (c : BitVec 2) : FieldConst :=
  if c = 0 then .zero else if c = 1 then .one else if c = 2 then .d else .sqrtm1

/-- The constant number of FLDC (R94). -/
def FieldConst.code : FieldConst → Nat
  | .zero => 0
  | .one => 1
  | .d => 2
  | .sqrtm1 => 3

/-- The constant of PLDC from `imm[0]` (R94). -/
def PointConst.ofCode (b : Bool) : PointConst := if b then .base else .neutral

/-- The constant number of PLDC (R94). -/
def PointConst.code : PointConst → Nat
  | .neutral => 0
  | .base => 1

/-- The field register index whose field starts at bit `lo`: its low three bits (R92, R93). -/
def fRegField (w : Word) (lo : Nat) : FReg := (w.extractLsb' lo 3).toFin

/-- The point register index whose field starts at bit `lo`: its low two bits (R92, R93). -/
def pRegField (w : Word) (lo : Nat) : PReg := (w.extractLsb' lo 2).toFin

/-- The slot number `imm[1:0]` (R94). -/
def slotField (w : Word) : Slot := (w.extractLsb' 0 2).toFin

/-- The operands of a word that has passed its row's mask test (R92, R93, R94, R101). -/
def Opcode.operands (o : Opcode) (w : Word) : Instr :=
  match o with
  | .FADD => .fadd (fRegField w 20) (fRegField w 16) (fRegField w 12)
  | .FSUB => .fsub (fRegField w 20) (fRegField w 16) (fRegField w 12)
  | .FNEG => .fneg (fRegField w 20) (fRegField w 16)
  | .FMUL => .fmul (fRegField w 20) (fRegField w 16) (fRegField w 12)
  | .FSQR => .fsqr (fRegField w 20) (fRegField w 16)
  | .FINV => .finv (fRegField w 20) (fRegField w 16)
  | .FEXP => .fexp (fRegField w 20) (fRegField w 16)
  | .FSQRT => .fsqrt (fRegField w 20) (fRegField w 8) (fRegField w 16)
  | .FEQ => .feq (fRegField w 16) (fRegField w 12)
  | .FPAR => .fpar (fRegField w 16)
  | .FMOV => .fmov (fRegField w 20) (fRegField w 16)
  | .FLDC => .fldc (fRegField w 20) (FieldConst.ofCode (w.extractLsb' 0 2))
  | .FLD => .fld (fRegField w 20) (slotField w)
  | .FST => .fst (fRegField w 16) (slotField w)
  | .PADD => .padd (pRegField w 20) (pRegField w 16) (pRegField w 12)
  | .PDBL => .pdbl (pRegField w 20) (pRegField w 16)
  | .PNEG => .pneg (pRegField w 20) (pRegField w 16)
  | .PEQ => .peq (pRegField w 16) (pRegField w 12)
  | .PMOV => .pmov (pRegField w 20) (pRegField w 16)
  | .PLDC => .pldc (pRegField w 20) (PointConst.ofCode (w.getLsbD 0))
  | .PAFF => .paff (fRegField w 20) (fRegField w 8) (pRegField w 16)
  | .PFAF => .pfaf (pRegField w 20) (fRegField w 16) (fRegField w 12)
  | .PDEC => .pdec (pRegField w 20) (slotField w)
  | .PENC => .penc (pRegField w 16) (slotField w)
  | .SMUL => .smul (pRegField w 20) (pRegField w 16) (Width.ofBit (w.getLsbD 0))
  | .KLD => .kld (slotField w) (Width.ofBit (w.getLsbD 4))
  | .KST => .kst (slotField w) (Width.ofBit (w.getLsbD 4))
  | .XLD => .xld (slotField w)
  | .XST => .xst (slotField w)
  | .DERIVE => .derive
  | .SIGN => .sign
  | .SIGNP => .signp
  | .VERIFY => .verify
  | .CLR => .clr

/-- Why a word is illegal (R96). -/
inductive DecodeError where
  /-- R96 a: `op` is none of the 34 opcodes. -/
  | unknownOpcode (op : Byte)
  /-- R96 b, c, d: a field the format does not use is not 0, or a register index or immediate is out of range. -/
  | fieldOutOfFormat (o : Opcode)
  /-- R96 e, f: the two destinations are one register, or a 64-byte transfer would run past the end of IO. -/
  | operandsConflict (o : Opcode)
  deriving DecidableEq, Repr

/-- The decode procedure of R101: find the row of `op`, test `(w AND mask) = match`, test the extra constraint, extract. -/
def decode (w : Word) : Except DecodeError Instr :=
  match Opcode.ofCode (w.extractLsb' 24 8) with
  | none => .error (.unknownOpcode (w.extractLsb' 24 8))
  | some o =>
    if w &&& o.mask = o.matchBits then
      if (o.operands w).wf then .ok (o.operands w) else .error (.operandsConflict o)
    else .error (.fieldOutOfFormat o)

/-- The decoder on a word numbered as spec/opcode_table.json numbers it: a command is one 32-bit word (R90), and bits at
`nbits` and above are 0. -/
def decodeTableWord (nbits w : Nat) : Option Instr :=
  (decode (BitVec.ofNat 32 (w % 2 ^ nbits))).toOption

/-! ### The encoder -/

/-- `op·2^24 + d·2^20 + a·2^16 + b·2^12 + e·2^8 + imm` (R99). -/
def assemble (op d a b e imm : Nat) : Word :=
  BitVec.ofNat 32 (op * 2 ^ 24 + d * 2 ^ 20 + a * 2 ^ 16 + b * 2 ^ 12 + e * 2 ^ 8 + imm)

/-- The word of a command, from its format's fields (R91, R92, R99). -/
def encode : Instr → Word
  | .fadd d a b => assemble 0x10 d a b 0 0
  | .fsub d a b => assemble 0x11 d a b 0 0
  | .fneg d a => assemble 0x12 d a 0 0 0
  | .fmul d a b => assemble 0x13 d a b 0 0
  | .fsqr d a => assemble 0x14 d a 0 0 0
  | .finv d a => assemble 0x15 d a 0 0 0
  | .fexp d a => assemble 0x16 d a 0 0 0
  | .fsqrt d e a => assemble 0x17 d a 0 e 0
  | .feq a b => assemble 0x18 0 a b 0 0
  | .fpar a => assemble 0x19 0 a 0 0 0
  | .fmov d a => assemble 0x1A d a 0 0 0
  | .fldc d c => assemble 0x1B d 0 0 0 c.code
  | .fld d sl => assemble 0x1C d 0 0 0 sl
  | .fst a sl => assemble 0x1D 0 a 0 0 sl
  | .padd d a b => assemble 0x20 d a b 0 0
  | .pdbl d a => assemble 0x21 d a 0 0 0
  | .pneg d a => assemble 0x22 d a 0 0 0
  | .peq a b => assemble 0x23 0 a b 0 0
  | .pmov d a => assemble 0x24 d a 0 0 0
  | .pldc d c => assemble 0x25 d 0 0 0 c.code
  | .paff d e a => assemble 0x26 d a 0 e 0
  | .pfaf d a b => assemble 0x27 d a b 0 0
  | .pdec d sl => assemble 0x28 d 0 0 0 sl
  | .penc a sl => assemble 0x29 0 a 0 0 sl
  | .smul d a w => assemble 0x2A d a 0 0 w.bit
  | .kld sl w => assemble 0x30 0 0 0 0 (sl + 16 * w.bit)
  | .kst sl w => assemble 0x31 0 0 0 0 (sl + 16 * w.bit)
  | .xld sl => assemble 0x32 0 0 0 0 sl
  | .xst sl => assemble 0x33 0 0 0 0 sl
  | .derive => assemble 0x40 0 0 0 0 0
  | .sign => assemble 0x41 0 0 0 0 0
  | .signp => assemble 0x42 0 0 0 0 0
  | .verify => assemble 0x43 0 0 0 0 0
  | .clr => assemble 0x44 0 0 0 0 0

/-- The row a command belongs to. -/
def Instr.opcode : Instr → Opcode
  | .fadd _ _ _ => .FADD
  | .fsub _ _ _ => .FSUB
  | .fneg _ _ => .FNEG
  | .fmul _ _ _ => .FMUL
  | .fsqr _ _ => .FSQR
  | .finv _ _ => .FINV
  | .fexp _ _ => .FEXP
  | .fsqrt _ _ _ => .FSQRT
  | .feq _ _ => .FEQ
  | .fpar _ => .FPAR
  | .fmov _ _ => .FMOV
  | .fldc _ _ => .FLDC
  | .fld _ _ => .FLD
  | .fst _ _ => .FST
  | .padd _ _ _ => .PADD
  | .pdbl _ _ => .PDBL
  | .pneg _ _ => .PNEG
  | .peq _ _ => .PEQ
  | .pmov _ _ => .PMOV
  | .pldc _ _ => .PLDC
  | .paff _ _ _ => .PAFF
  | .pfaf _ _ _ => .PFAF
  | .pdec _ _ => .PDEC
  | .penc _ _ => .PENC
  | .smul _ _ _ => .SMUL
  | .kld _ _ => .KLD
  | .kst _ _ => .KST
  | .xld _ => .XLD
  | .xst _ => .XST
  | .derive => .DERIVE
  | .sign => .SIGN
  | .signp => .SIGNP
  | .verify => .VERIFY
  | .clr => .CLR

end Sys2Proof
end

