-- ==== Sys2Proof/Config.lean ====
section
/-!
DEFINITION. What an instance of the block fixes (00_scope.md R6, 10_state.md R38) and the one free value.

All four are uninterpreted constants: no proof can see their value, so a claim about the model holds for every block
(log entries 1 and 4).
-/

namespace Sys2Proof

/-- The number of 32-bit words of the message memory. R6: MSG_MAX is a multiple of 4 and at most 2^32 - 4096, so this
number is any from 0 to 2^30 - 1024. -/
opaque Config.msgWords : Fin 1073740801

/-- MSG_MAX, the size of the message memory in bytes (R6). -/
def Config.msgMax : Nat := 4 * Config.msgWords.val

/-- STRICT_S: whether VERIFY rejects S ≥ L (R6, 43_sequencer.md R229). -/
opaque Config.strictS : Bool

/-- The SHA-512 collaborator: a total function from byte strings to 64 bytes, byte D[0] first (43_sequencer.md R222). -/
opaque Config.sha512 : List Byte → Vector Byte 64

/-- FREE VALUE (log entry 4): how many host events (STATUS reads, or a reset) the busy interval of the n-th latched command
sees before its completion step. R68 and R298 leave the length of the interval open but for finiteness. DESIGN CHOICE (log
entry 4): it is a function of the count n alone, so in two runs the n-th commands have one length, whatever their words and
data. -/
opaque Config.busyPolls : Nat → Nat

end Sys2Proof
end

