-- ==== Sys2Proof/Machine/State.lean ====
section
/-!
DEFINITION. The state of SC-ED25519 as plain data, the reasons a step could stop, and the state after reset.

INVENTORY.md lists every field with its rule and its reset value.
-/

namespace Sys2Proof.Machine

/-- What the host asks of the window in one access (20_memory.md R63 to R70). `width` is the access's width in bits and `off`
its byte offset from the window's base; a well-formed access has width 32 and an offset that is a multiple of 4. -/
inductive HostAccess where
  | read (width off : Nat)
  | write (width off : Nat) (v : Word)
  deriving DecidableEq, Repr

/-- What reaches the block from outside: a host access, or an assertion of the reset input (70_reset_and_hazards.md R290). -/
inductive HostEvent where
  | access (a : HostAccess)
  | reset
  deriving DecidableEq, Repr

/-- What the window answers to an access: the data of a read, the acknowledgement of a write, or `HostErr` (R64, R65, R70). -/
inductive HostReply where
  | data (w : Word)
  | ok
  | hostErr
  deriving DecidableEq, Repr

/-- The result codes of ERR; 6 to 15 are never produced (10_state.md R30, 60_exceptions.md R260). -/
inductive ResultCode where
  | ok
  | badSignature
  | badPublicKey
  | signatureNotMatchMessage
  | illegalCommand
  | badLength
  deriving DecidableEq, Repr

/-- Memory: the bytes of IO and MSG at their offsets in the host window (R60, R61), as a list of (offset, byte) pairs in one
canonical form: offsets strictly rising, no byte equal to what an unlisted offset reads as. -/
abbrev Memory := List Host.Cell

/-- The architectural state (10_state.md), and below the line the model's own fields. -/
structure State where
  /-- F0 to F7 (R21). -/
  f : Vector Fe 8
  /-- P0 to P3 (R22). -/
  p : Vector Point 4
  /-- The scalar register K (R24). -/
  k : BitVec 512
  /-- The expanded-secret-key register XSK (R25). -/
  xsk : Vector Byte 64
  /-- The IO buffer and the message memory (R26, R27). -/
  mem : Memory
  /-- MSGLEN (R27). -/
  msglen : Word
  /-- The latched command word; STATUS.BUSY is "there is one" (R28, R31, R35). -/
  cmd : Option Word
  /-- STATUS.DONE (R28). -/
  done : Bool
  /-- STATUS.ILL, sticky (R28). -/
  ill : Bool
  /-- STATUS.VALID (R28, R29). -/
  valid : Bool
  /-- STATUS.EQ (R28, R29). -/
  eq : Bool
  /-- STATUS.EVEN (R28, R29). -/
  even : Bool
  /-- STATUS.ERR (R30). -/
  err : ResultCode
  /-- THE MODEL'S OWN (log entry 2): the host events still to be taken, in order of arrival (20_memory.md R75). -/
  inputs : List HostEvent
  /-- THE MODEL'S OWN (log entry 2): the answers the window has given, oldest first. -/
  replies : List HostReply
  /-- THE MODEL'S OWN (log entry 3): the byte strings sent on the SHA-512 port by commands that completed, oldest first
  (43_sequencer.md R232). -/
  hashSent : List (List Byte)
  /-- THE MODEL'S OWN (log entry 4): how many more host events the busy interval sees before the completion step. -/
  busyLeft : Nat
  /-- THE MODEL'S OWN (log entry 4): how many commands CMD writes have latched; `Config.busyPolls` is applied to it. -/
  latches : Nat
  deriving DecidableEq, Repr

/-- There is no fault: nothing stops this machine (60_exceptions.md, its opening; R262, R264). Illegal words, bad lengths and
bad signatures are result codes, and a bus access error is an answer to the host. -/
inductive Fault where
  deriving DecidableEq, Repr

/-- The reasons for having no meaning. -/
inductive Refusal where
  /-- Raised by `exec` alone, for an instruction the model does not have yet (none is left): safe. -/
  | notModelled (mnemonic : String)
  deriving DecidableEq, Repr

/-- What a step answers. -/
abbrev Result := Host.Outcome State Fault Refusal

/-- The state right after reset (10_state.md R37): every value is the spec's, but for the model's own five fields. -/
def State.reset : State where
  f := Vector.replicate 8 (Fe.ofNat 0)
  p := Vector.replicate 4 Point.neutral
  k := 0
  xsk := Vector.replicate 64 0
  mem := []
  msglen := 0
  cmd := none
  done := false
  ill := false
  valid := false
  eq := false
  even := false
  err := .ok
  inputs := []
  replies := []
  hashSent := []
  busyLeft := 0
  latches := 0

end Sys2Proof.Machine
end

