-- ==== Sys2Proof/Machine/Ops.lean ====
section
/-!
DEFINITION. The shared operations over memory and registers, and how a command ends: completion (40_field.md R120), `fail` and
`illegal` (60_exceptions.md R262, R263). The hardware has no trap: these two take the place of taking an exception, and there
is no return (R264).
-/

namespace Sys2Proof.Machine

/-! ### Memory (20_memory.md R60, R61; 10_state.md R37) -/

/-- What an unlisted offset reads as: IO and MSG are zero after reset (R37). -/
def Memory.unlisted : Byte := 0

/-- The byte at an offset. -/
def Memory.read : Memory → Nat → Byte
  | [], _ => Memory.unlisted
  | (k, v) :: m, a => if a = k then v else Memory.read m a

/-- Store a byte at an offset, keeping the canonical form. -/
def Memory.write : Memory → Nat → Byte → Memory
  | [], a, b => if b = Memory.unlisted then [] else [(a, b)]
  | (k, v) :: m, a, b =>
    if a < k then (if b = Memory.unlisted then (k, v) :: m else (a, b) :: (k, v) :: m)
    else if a = k then (if b = Memory.unlisted then m else (a, b) :: m)
    else (k, v) :: Memory.write m a b

/-- The `n` bytes from offset `a` on. -/
def Memory.readBytes (m : Memory) : Nat → Nat → List Byte
  | _, 0 => []
  | a, n + 1 => Memory.read m a :: Memory.readBytes m (a + 1) n

/-- Store a byte string from offset `a` on. -/
def Memory.writeBytes : Memory → Nat → List Byte → Memory
  | m, _, [] => m
  | m, a, b :: bs => Memory.writeBytes (Memory.write m a b) (a + 1) bs

/-- The canonical form: offsets strictly rising, and nothing listed that an unlisted offset would read as. -/
abbrev Memory.wf (m : Memory) : Prop :=
  m.Pairwise (fun c d => c.1 < d.1) ∧ ∀ c ∈ m, c.2 ≠ Memory.unlisted

/-! ### Registers (00_scope.md R9) -/

/-- `F[i]`. -/
def State.readF (s : State) (i : FReg) : Fe := s.f[i.val]

/-- `F[i] <- v`. -/
def State.writeF (s : State) (i : FReg) (v : Fe) : State := { s with f := s.f.set i.val v }

/-- `P[i]`. -/
def State.readP (s : State) (i : PReg) : Point := s.p[i.val]

/-- `P[i] <- (X, Y, T, Z)`: whole-value replacement (10_state.md R22). -/
def State.writeP (s : State) (i : PReg) (v : Point) : State := { s with p := s.p.set i.val v }

/-- `K <- v`, v below 2^512. -/
def State.writeK (s : State) (v : Nat) : State := { s with k := BitVec.ofNat 512 v }

/-- `XSK <- v`. -/
def State.writeXsk (s : State) (v : Vector Byte 64) : State := { s with xsk := v }

/-! ### How a command begins and ends (20_memory.md R66; 60_exceptions.md R262, R263) -/

/-- A CMD write latches a word: BUSY <- 1, DONE <- 0, and nothing else of the spec's state (R66). The model's own fields draw
the length of the busy interval. DESIGN CHOICE (log entry 4): R298 leaves open whether that length depends on the command or its
data; here the free value is applied to the count of latched commands alone. -/
def State.latch (s : State) (w : Word) : State :=
  { s with cmd := some w, done := false, busyLeft := Config.busyPolls s.latches, latches := s.latches + 1 }

/-- The end of a command with a result code: ERR <- e, BUSY <- 0, DONE <- 1 (R66, R120 d, R262). -/
def State.complete (s : State) (e : ResultCode) : State :=
  { s with err := e, cmd := none, done := true }

/-- The whole effect of an illegal command: ERR <- 4, ILL <- 1, BUSY <- 0, DONE <- 1 (R263). -/
def State.illegal (s : State) : State :=
  { s with err := .illegalCommand, ill := true, cmd := none, done := true }

end Sys2Proof.Machine
end

