-- ==== Sys2Proof/Machine/Flags.lean ====
section
/-!
DEFINITION. The three result flags and the STATUS word (10_state.md R28, R29, R30).
-/

namespace Sys2Proof.Machine

/-- `VALID <- b`: the result of FSQRT, PFAF, PDEC (R28). -/
def State.writeValid (s : State) (b : Bool) : State := { s with valid := b }

/-- `EQ <- b`: the result of FEQ, PEQ (R28). -/
def State.writeEq (s : State) (b : Bool) : State := { s with eq := b }

/-- `EVEN <- b`: the result of FPAR (R28). -/
def State.writeEven (s : State) (b : Bool) : State := { s with even := b }

/-- `VALID <- 0; EQ <- 0; EVEN <- 0` (43_sequencer.md R225, R230). -/
def State.clearFlags (s : State) : State := { s with valid := false, eq := false, even := false }

/-- The number of a result code (R30, 60_exceptions.md R260). -/
def ResultCode.code : ResultCode → Nat
  | .ok => 0
  | .badSignature => 1
  | .badPublicKey => 2
  | .signatureNotMatchMessage => 3
  | .illegalCommand => 4
  | .badLength => 5

/-- BUSY: a command is latched and not complete (R28). -/
def State.busy (s : State) : Bool := s.cmd.isSome

/-- The STATUS word as a host read gives it: 0x00000001 while BUSY, else the fields at their bits, reserved bits 0 (R28,
20_memory.md R68). -/
def State.statusWord (s : State) : Word :=
  if s.busy then 1
  else
    BitVec.ofNat 32 (s.done.toNat * 2 ^ 1 + s.ill.toNat * 2 ^ 2 + s.valid.toNat * 2 ^ 3 + s.eq.toNat * 2 ^ 4
      + s.even.toNat * 2 ^ 5 + ResultCode.code s.err * 2 ^ 8)

end Sys2Proof.Machine
end

