-- ==== Sys2Proof/Machine/Field.lean ====
section
/-!
DEFINITION. The field-element unit (40_field.md): its functions over GF(2^255 - 19), then one meaning per command.
-/

namespace Sys2Proof.Machine

/-! ### Functions (R121 to R130, R133) -/

/-- R121. -/
def fadd (x y : Fe) : Fe := Fe.ofNat (x.val + y.val)

/-- R122: x - y when x ≥ y and x - y + p otherwise. -/
def fsub (x y : Fe) : Fe := Fe.ofNat (x.val + primeP - y.val)

/-- R123. -/
def fneg (x : Fe) : Fe := Fe.ofNat (primeP - x.val)

/-- R124: over the full 510-bit product (R133). -/
def fmul (x y : Fe) : Fe := Fe.ofNat (x.val * y.val)

/-- R125. -/
def fsqr (x : Fe) : Fe := fmul x x

/-- Square and multiply over bits i-1 down to 0 of the exponent (R127). -/
def fexpLoop (x : Fe) (n : Nat) : Nat → Fe → Fe
  | 0, r => r
  | i + 1, r => fexpLoop x n i (if n.testBit i then fmul (fsqr r) x else fsqr r)

/-- R127: x^n mod p for n below 2^512, with x^0 = 1 for every x. -/
def fexp (x : Fe) (n : Nat) : Fe := fexpLoop x n 512 (Fe.ofNat 1)

/-- R126: x^(p-2) mod p, so 0 for x = 0. -/
def finv (x : Fe) : Fe := fexp x (primeP - 2)

/-- R129. The comparator's structure, an OR over the XORs of the limbs, is `limbDifference`. -/
def feq (x y : Fe) : Bool := x = y

/-- The accumulated difference of R129: the OR, over `n` limbs of `width` bits, of the XOR of the two limbs. -/
def limbDifference (width : Nat) : Nat → Nat → Nat → Nat
  | 0, _, _ => 0
  | n + 1, x, y => ((x % 2 ^ width) ^^^ (y % 2 ^ width)) ||| limbDifference width n (x / 2 ^ width) (y / 2 ^ width)

/-- R130: bit 0 of the canonical integer is 0. -/
def feven (x : Fe) : Bool := x.val % 2 = 0

/-- SQRTM1 = 2^((p-1)/4) mod p (10_state.md R33). -/
def sqrtm1 : Fe := Fe.ofNat 0x2b8324804fc1df0b2b4d00993dfbd7a72f431806ad2fe478c4ee1b274a0ea0b0

/-- The curve coefficient d = -121665/121666 mod p (10_state.md R33). -/
def curveD : Fe := Fe.ofNat 0x52036cee2b6ffe738cc740797779e89800700a4d4141d8ab75eb4dca135978a3

/-- R128: the pair (r, -r) of roots, or none. Both candidates are always computed; the first that passes is r. -/
def fsqrt (a : Fe) : Option (Fe × Fe) :=
  let c1 := fexp a ((primeP + 3) / 8)
  let c2 := fmul c1 sqrtm1
  let ok1 := feq (fsqr c1) a
  let ok2 := feq (fsqr c2) a
  let r := if ok1 then c1 else c2
  if ok1 || ok2 then some (r, fneg r) else none

/-- The constants of FLDC (R132). -/
def FieldConst.value : FieldConst → Fe
  | .zero => Fe.ofNat 0
  | .one => Fe.ofNat 1
  | .d => curveD
  | .sqrtm1 => sqrtm1

/-! ### Meanings -/

/-- FADD (R121). -/
def execFadd (d a b : FReg) (s : State) : Result :=
  .next ((s.writeF d (fadd (s.readF a) (s.readF b))).complete .ok)

/-- FSUB (R122). -/
def execFsub (d a b : FReg) (s : State) : Result :=
  .next ((s.writeF d (fsub (s.readF a) (s.readF b))).complete .ok)

/-- FNEG (R123). -/
def execFneg (d a : FReg) (s : State) : Result :=
  .next ((s.writeF d (fneg (s.readF a))).complete .ok)

/-- FMUL (R124). -/
def execFmul (d a b : FReg) (s : State) : Result :=
  .next ((s.writeF d (fmul (s.readF a) (s.readF b))).complete .ok)

/-- FSQR (R125). -/
def execFsqr (d a : FReg) (s : State) : Result :=
  .next ((s.writeF d (fsqr (s.readF a))).complete .ok)

/-- FINV (R126). -/
def execFinv (d a : FReg) (s : State) : Result :=
  .next ((s.writeF d (finv (s.readF a))).complete .ok)

/-- FEXP (R127): the exponent is the whole of K. -/
def execFexp (d a : FReg) (s : State) : Result :=
  .next ((s.writeF d (fexp (s.readF a) s.k.toNat)).complete .ok)

/-- FSQRT (R128). One register named as both destinations is an illegal command (30_encoding.md R96 e, R263). -/
def execFsqrt (d e a : FReg) (s : State) : Result :=
  if d = e then .next s.illegal
  else
    match fsqrt (s.readF a) with
    | some (r, nr) => .next ((((s.writeF d r).writeF e nr).writeValid true).complete .ok)
    | none => .next ((s.writeValid false).complete .ok)

/-- FEQ (R129). -/
def execFeq (a b : FReg) (s : State) : Result :=
  .next ((s.writeEq (feq (s.readF a) (s.readF b))).complete .ok)

/-- FPAR (R130). -/
def execFpar (a : FReg) (s : State) : Result :=
  .next ((s.writeEven (feven (s.readF a))).complete .ok)

/-- FMOV (R131). -/
def execFmov (d a : FReg) (s : State) : Result :=
  .next ((s.writeF d (s.readF a)).complete .ok)

/-- FLDC (R132). -/
def execFldc (d : FReg) (c : FieldConst) (s : State) : Result :=
  .next ((s.writeF d (FieldConst.value c)).complete .ok)

end Sys2Proof.Machine
end

