-- ==== Sys2Proof/Machine/Operands.lean ====
section
/-!
DEFINITION. Operand forms: integers from bytes and bytes from integers (00_scope.md R8, 20_memory.md R62), the slots of IO, the
message, the halves of XSK and the slices of K.
-/

namespace Sys2Proof.Machine

/-! ### Little-endian integers (R8, R62) -/

/-- `le_int(b)`: the sum of b[i]·256^i. -/
def leInt : List Byte → Nat
  | [] => 0
  | b :: bs => b.toNat + 256 * leInt bs

/-- `le_bytes(v, n)`: the n-byte string whose `le_int` is v (v below 256^n). -/
def leBytes : Nat → Nat → List Byte
  | 0, _ => []
  | n + 1, v => BitVec.ofNat 8 v :: leBytes n (v / 256)

/-- The 64 bytes of a byte string (a shorter one is continued with zeros; every use has exactly 64). -/
def bytes64 (l : List Byte) : Vector Byte 64 := Vector.ofFn fun i => l.getD i.val 0

/-! ### Unit accesses to the two memories (20_memory.md R60, R61, R71) -/

/-- The memories the unit addresses. -/
inductive MemSpace where
  | io
  | msg
  deriving DecidableEq, Repr

/-- The window offset of byte 0 of a memory (R61). -/
def MemSpace.base : MemSpace → Nat
  | .io => 0x080
  | .msg => 0x1000

/-- `MemRead(space, addr, n)` (R9, R71). -/
def State.memRead (s : State) (sp : MemSpace) (addr n : Nat) : List Byte :=
  Memory.readBytes s.mem (sp.base + addr) n

/-- `MemWrite(space, addr, n, b)`, n being the length of b (R9, R71). -/
def State.memWrite (s : State) (sp : MemSpace) (addr : Nat) (b : List Byte) : State :=
  { s with mem := Memory.writeBytes s.mem (sp.base + addr) b }

/-- The byte address in IO of a slot: 32·s (R94, 10_state.md R26). -/
def Slot.addr (sl : Slot) : Nat := 32 * sl.val

/-- `slot(s)`: its 32 bytes (R9). -/
def State.readSlot (s : State) (sl : Slot) : List Byte := s.memRead .io (Slot.addr sl) 32

/-- The 64 bytes of slots s and s+1 (R94). -/
def State.readSlotPair (s : State) (sl : Slot) : List Byte := s.memRead .io (Slot.addr sl) 64

/-- `slot(s) <- b`; a 64-byte string goes to slots s and s+1 (R94). -/
def State.writeSlot (s : State) (sl : Slot) (b : List Byte) : State := s.memWrite .io (Slot.addr sl) b

/-- The message `MSG[0 : MSGLEN]` (10_state.md R27, 43_sequencer.md R224). -/
def State.message (s : State) : List Byte := s.memRead .msg 0 s.msglen.toNat

/-- The slot of the signature's R half (10_state.md R26). -/
def slotR : Slot := 0

/-- The slot of the signature's S half (R26). -/
def slotS : Slot := 1

/-- The slot of the public key (R26). -/
def slotKey : Slot := 2

/-- The slot of the seed (R26). -/
def slotSeed : Slot := 3

/-! ### Registers as operands -/

/-- The number of ladder steps and of scalar bits of a width selector (41_point.md R172). -/
def Width.bits : Width → Nat
  | .narrow => 256
  | .wide => 512

/-- The number of bytes a KLD or KST moves (42_transfer.md R202, R203). -/
def Width.bytes : Width → Nat
  | .narrow => 32
  | .wide => 64

/-- `K[255:0]` or `K[511:0]` (R172, R203). -/
def State.kSlice (s : State) (w : Width) : Nat := s.k.toNat % 2 ^ Width.bits w

/-- `XSK[0:32]`: the secret scalar's bytes (10_state.md R25). -/
def State.xskScalar (s : State) : List Byte := s.xsk.toList.take 32

/-- `XSK[32:64]`: the source's `prefix` (R25). -/
def State.xskNonceKey (s : State) : List Byte := s.xsk.toList.drop 32

end Sys2Proof.Machine
end

