-- ==== Sys2Proof/Machine/Point.lean ====
section
/-!
DEFINITION. The curve-point unit (41_point.md): its functions over extended twisted-Edwards coordinates, then one meaning per
command.
-/

namespace Sys2Proof.Machine

/-! ### Constants (10_state.md R33) -/

/-- 2d mod p. -/
def curve2D : Fe := Fe.ofNat 0x2406d9dc56dffce7198e80f2eef3d13000e0149a8283b156ebd69b9426b2f159

/-- The base point's x. -/
def baseX : Fe := Fe.ofNat 0x216936d3cd6e53fec0a4e231fdd6dc5c692cc7609525a7b2c9562d608f25d51a

/-- The base point's y = 4/5. -/
def baseY : Fe := Fe.ofNat 0x6666666666666666666666666666666666666666666666666666666666666658

/-- Bt = Bx·By. -/
def baseT : Fe := Fe.ofNat 0x67875f0fd78b766566ea4e8e64abe37d20f09f80775152f56dde8ab3a5b7dda3

/-- BASE = (Bx, By, Bt, 1). -/
def basePoint : Point := ⟨baseX, baseY, baseT, Fe.ofNat 1⟩

/-- The constants of PLDC (R164). -/
def PointConst.value : PointConst → Point
  | .neutral => Point.neutral
  | .base => basePoint

/-! ### Functions (R160 to R172) -/

/-- The unified addition formula (R160). -/
def padd (P Q : Point) : Point :=
  let A := fmul (fsub P.Y P.X) (fsub Q.Y Q.X)
  let B := fmul (fadd P.Y P.X) (fadd Q.Y Q.X)
  let C := fmul (fmul P.T curve2D) Q.T
  let D := fmul (fmul P.Z (Fe.ofNat 2)) Q.Z
  let E := fsub B A
  let F := fsub D C
  let G := fadd D C
  let H := fadd B A
  ⟨fmul E F, fmul G H, fmul E H, fmul F G⟩

/-- The dedicated doubling formula; it does not read T (R161). -/
def pdbl (P : Point) : Point :=
  let A := fsqr P.X
  let B := fsqr P.Y
  let C := fmul (Fe.ofNat 2) (fsqr P.Z)
  let H := fadd A B
  let E := fsub H (fsqr (fadd P.X P.Y))
  let G := fsub A B
  let F := fadd C G
  ⟨fmul E F, fmul G H, fmul E H, fmul F G⟩

/-- R162. -/
def pneg (P : Point) : Point := ⟨fneg P.X, P.Y, fneg P.T, P.Z⟩

/-- The affine point (x, y) = (X/Z, Y/Z) (R168). -/
def paff (P : Point) : Fe × Fe :=
  let zi := finv P.Z
  (fmul P.X zi, fmul P.Y zi)

/-- R166: equality of the affine points; both comparisons are always made. -/
def peq (P Q : Point) : Bool := feq (paff P).1 (paff Q).1 && feq (paff P).2 (paff Q).2

/-- The curve equation -x^2 + y^2 = 1 + d·x^2·y^2 as R169 computes it. -/
def onCurve (x y : Fe) : Bool :=
  let xx := fsqr x
  let yy := fsqr y
  feq (fsub yy xx) (fadd (Fe.ofNat 1) (fmul curveD (fmul xx yy)))

/-- R169: a point from its affine coordinates, or none off the curve. -/
def pfaf (x y : Fe) : Option Point :=
  if onCurve x y then some ⟨x, y, fmul x y, Fe.ofNat 1⟩ else none

/-- The candidate x^2 = (y^2 - 1)/(d·y^2 + 1) of R170. -/
def recoverXX (y : Fe) : Fe :=
  fmul (fsub (fsqr y) (Fe.ofNat 1)) (finv (fadd (fmul curveD (fsqr y)) (Fe.ofNat 1)))

/-- R170: decompress 32 bytes, or none. -/
def pdec (b : List Byte) : Option Point :=
  let v := leInt b
  let sign := v.testBit 255
  let yInt := v % 2 ^ 255
  if primeP ≤ yInt then none
  else
    let y := Fe.ofNat yInt
    match fsqrt (recoverXX y) with
    | none => none
    | some (r, nr) =>
      if sign && feq r (Fe.ofNat 0) then none
      else
        let x := if r.val.testBit 0 = sign then r else nr
        some ⟨x, y, fmul x y, Fe.ofNat 1⟩

/-- R171: compress a point to 32 bytes. -/
def penc (P : Point) : List Byte :=
  leBytes 32 ((paff P).2.val + 2 ^ 255 * ((paff P).1.val % 2))

/-- The ladder over bits i-1 down to 0 of the scalar, from the accumulators R0 and R1 (R172). -/
def ladder (n : Nat) : Nat → Point → Point → Point
  | 0, R0, _ => R0
  | i + 1, R0, R1 =>
    if n.testBit i then ladder n i (padd R0 R1) (pdbl R1) else ladder n i (pdbl R0) (padd R0 R1)

/-- R172: `bits` ladder steps from the neutral and P. -/
def smul (P : Point) (n bits : Nat) : Point := ladder n bits Point.neutral P

/-! ### Meanings -/

/-- PADD (R160). -/
def execPadd (d a b : PReg) (s : State) : Result :=
  .next ((s.writeP d (padd (s.readP a) (s.readP b))).complete .ok)

/-- PDBL (R161). -/
def execPdbl (d a : PReg) (s : State) : Result :=
  .next ((s.writeP d (pdbl (s.readP a))).complete .ok)

/-- PNEG (R162). -/
def execPneg (d a : PReg) (s : State) : Result :=
  .next ((s.writeP d (pneg (s.readP a))).complete .ok)

/-- PMOV (R163). -/
def execPmov (d a : PReg) (s : State) : Result :=
  .next ((s.writeP d (s.readP a)).complete .ok)

/-- PLDC (R164). -/
def execPldc (d : PReg) (c : PointConst) (s : State) : Result :=
  .next ((s.writeP d (PointConst.value c)).complete .ok)

/-- PEQ (R166). -/
def execPeq (a b : PReg) (s : State) : Result :=
  .next ((s.writeEq (peq (s.readP a) (s.readP b))).complete .ok)

/-- PAFF (R168). One register named as both destinations is an illegal command (30_encoding.md R96 e, R263). -/
def execPaff (d e : FReg) (a : PReg) (s : State) : Result :=
  if d = e then .next s.illegal
  else .next (((s.writeF d (paff (s.readP a)).1).writeF e (paff (s.readP a)).2).complete .ok)

/-- PFAF (R169). -/
def execPfaf (d : PReg) (a b : FReg) (s : State) : Result :=
  match pfaf (s.readF a) (s.readF b) with
  | some P => .next (((s.writeP d P).writeValid true).complete .ok)
  | none => .next ((s.writeValid false).complete .ok)

/-- PDEC (R170). -/
def execPdec (d : PReg) (sl : Slot) (s : State) : Result :=
  match pdec (s.readSlot sl) with
  | some P => .next (((s.writeP d P).writeValid true).complete .ok)
  | none => .next ((s.writeValid false).complete .ok)

/-- PENC (R171). -/
def execPenc (a : PReg) (sl : Slot) (s : State) : Result :=
  .next ((s.writeSlot sl (penc (s.readP a))).complete .ok)

/-- SMUL and SMUL.W (R172). -/
def execSmul (d a : PReg) (w : Width) (s : State) : Result :=
  .next ((s.writeP d (smul (s.readP a) (s.kSlice w) (Width.bits w))).complete .ok)

end Sys2Proof.Machine
end

