-- ==== Sys2Proof/Machine/Sequencer.lean ====
section
/-!
DEFINITION. The sequencer commands and the SHA-512 port (43_sequencer.md). `execVerify`, `execSign` and `execSignp` answer with
the outer shape of the state written out, so that only the values inside depend on the uninterpreted `Config.sha512`.
-/

namespace Sys2Proof.Machine

/-- L, the order of BASE (10_state.md R33). -/
def orderL : Nat := 0x1000000000000000000000000000000014def9dea2f79cd65812631a5cf5d3ed

/-- One transaction on the SHA-512 port: the answer to a byte string (R222). -/
def hashOf (m : List Byte) : List Byte := (Config.sha512 m).toList

/-- `clamp(b)`: clear bits 0 to 2 of byte 0, clear bit 255, set bit 254 (R223). -/
def clamp (b : List Byte) : List Byte :=
  (b.modify 0 fun x => x &&& 0xF8#8).modify 31 fun x => (x &&& 0x7F#8) ||| 0x40#8

/-- What `derive(seed)` returns: scalar bytes, prefix, public key (R223). -/
structure DerivedKey where
  scalarBytes : List Byte
  nonceKey : List Byte
  publicKey : List Byte
  deriving DecidableEq, Repr

/-- `derive(seed)` (R223). -/
def deriveKey (seed : List Byte) : DerivedKey :=
  let h := hashOf seed
  let sb := clamp (h.take 32)
  ⟨sb, h.drop 32, penc (smul basePoint (leInt sb) 256)⟩

/-- The nonce r of a signature (R227 step 2). -/
def nonceScalar (nonceKey m : List Byte) : Nat := leInt (hashOf (nonceKey ++ m)) % orderL

/-- The R half of a signature (R227 step 3). -/
def signatureR (nonceKey m : List Byte) : List Byte := penc (smul basePoint (nonceScalar nonceKey m) 256)

/-- The S half of a signature, S = (k·a + r) mod L on exact integers (R221 d, R227 steps 4 and 5). -/
def signatureS (scalarBytes nonceKey pk m : List Byte) : List Byte :=
  let r := nonceScalar nonceKey m
  let k := leInt (hashOf (signatureR nonceKey m ++ pk ++ m)) % orderL
  leBytes 32 ((k * leInt scalarBytes + r) % orderL)

/-- Steps 2 to 4 of R229: the decoded R and A, or the code of the first check that fails. -/
def verifyPoints (Rb Sb Ab : List Byte) : Except ResultCode (Point × Point) :=
  match pdec Rb with
  | none => .error .badSignature
  | some R =>
    if Config.strictS && decide (orderL ≤ leInt Sb) then .error .badSignature
    else
      match pdec Ab with
      | none => .error .badPublicKey
      | some A => .ok (R, A)

/-- Step 6 of R229: [S]·BASE = R + [k]·A, k the unreduced 512-bit integer. -/
def verifyEquation (R A : Point) (S k : Nat) : Bool :=
  peq (smul basePoint S 256) (padd R (smul A k 512))

/-- The outcome of R229. -/
def verifyResult (Rb Sb Ab m : List Byte) : ResultCode :=
  match verifyPoints Rb Sb Ab with
  | .error e => e
  | .ok (R, A) =>
    if verifyEquation R A (leInt Sb) (leInt (hashOf (Rb ++ Ab ++ m))) then .ok else .signatureNotMatchMessage

/-- The hash requests of VERIFY: none when a decode or the S check fails, else one (R232). -/
def verifyRequests (Rb Sb Ab m : List Byte) : List (List Byte) :=
  match verifyPoints Rb Sb Ab with
  | .error _ => []
  | .ok _ => [Rb ++ Ab ++ m]

/-! ### Operations on the state -/

/-- Strings sent on the SHA-512 port, in order (R222, R232). They enter the record in the completion step, so a command that reset
abandons is recorded as having sent none (DESIGN CHOICE, log entry 3). -/
def State.send (s : State) (ms : List (List Byte)) : State := { s with hashSent := s.hashSent ++ ms }

/-- `scrub` (R225). -/
def State.scrub (s : State) : State :=
  ({ s with
      f := Vector.replicate 8 (Fe.ofNat 0)
      p := Vector.replicate 4 Point.neutral
      k := 0 } : State).clearFlags

/-- The length check of SIGN, SIGNP and VERIFY passes (R224). -/
def State.lengthOk (s : State) : Bool := s.msglen.toNat ≤ Config.msgMax

/-- The body of DERIVE (R226). -/
def State.deriveBody (s : State) : State :=
  let key := deriveKey (s.readSlot slotSeed)
  ((((s.send [s.readSlot slotSeed]).writeXsk (bytes64 (key.scalarBytes ++ key.nonceKey))).writeSlot slotKey
    key.publicKey).scrub)

/-- The body of SIGNP after its length check (R227). -/
def State.signBody (s : State) : State :=
  let pk := s.readSlot slotKey
  let m := s.message
  let Rb := signatureR s.xskNonceKey m
  let Sb := signatureS s.xskScalar s.xskNonceKey pk m
  (((s.send [s.xskNonceKey ++ m, Rb ++ pk ++ m]).writeSlot slotR Rb).writeSlot slotS Sb).scrub

/-! ### Meanings -/

/-- DERIVE (R226). -/
def execDerive (s : State) : Result := .next (s.deriveBody.complete .ok)

/-- SIGNP (R227). -/
def execSignp (s : State) : Result :=
  if s.lengthOk then .next (s.signBody.complete .ok) else .next (s.complete .badLength)

/-- SIGN (R228): the length check, the body of DERIVE, the body of SIGNP. -/
def execSign (s : State) : Result :=
  if s.lengthOk then .next (s.deriveBody.signBody.complete .ok) else .next (s.complete .badLength)

/-- VERIFY (R229). -/
def execVerify (s : State) : Result :=
  if s.lengthOk then
    .next (((s.send (verifyRequests (s.readSlot slotR) (s.readSlot slotS) (s.readSlot slotKey) s.message)).scrub).complete
      (verifyResult (s.readSlot slotR) (s.readSlot slotS) (s.readSlot slotKey) s.message))
  else .next (s.complete .badLength)

/-- CLR (R230): every data location to its reset value; ILL is kept. -/
def execClr (s : State) : Result :=
  .next (({ s.scrub with
      xsk := Vector.replicate 64 0
      mem := []
      msglen := 0 } : State).complete .ok)

end Sys2Proof.Machine
end

