-- ==== Sys2Proof/Machine/Transfer.lean ====
section
/-!
DEFINITION. The transfers between the IO buffer and F, K, XSK (42_transfer.md), one meaning per command. A 64-byte transfer that
would run past the end of IO is an illegal command (30_encoding.md R96 f, R263).
-/

namespace Sys2Proof.Machine

/-- The bytes of a K transfer stay inside IO (R96 f). -/
def kSpanFits (sl : Slot) (w : Width) : Bool := w = .narrow || sl.pairFits

/-- FLD (R200): the 256-bit integer of the slot, reduced mod p. -/
def execFld (d : FReg) (sl : Slot) (s : State) : Result :=
  .next ((s.writeF d (Fe.ofNat (leInt (s.readSlot sl)))).complete .ok)

/-- FST (R201). -/
def execFst (a : FReg) (sl : Slot) (s : State) : Result :=
  .next ((s.writeSlot sl (leBytes 32 (s.readF a).val)).complete .ok)

/-- KLD and KLD.W (R202): no reduction; the narrow form zero-extends. -/
def execKld (sl : Slot) (w : Width) (s : State) : Result :=
  if kSpanFits sl w then .next ((s.writeK (leInt (s.memRead .io (Slot.addr sl) (Width.bytes w)))).complete .ok)
  else .next s.illegal

/-- KST and KST.W (R203): the narrow form drops K[511:256]. -/
def execKst (sl : Slot) (w : Width) (s : State) : Result :=
  if kSpanFits sl w then .next ((s.writeSlot sl (leBytes (Width.bytes w) (s.kSlice w))).complete .ok)
  else .next s.illegal

/-- XLD (R204): byte for byte, neither clamped nor checked. -/
def execXld (sl : Slot) (s : State) : Result :=
  if sl.pairFits then .next ((s.writeXsk (bytes64 (s.readSlotPair sl))).complete .ok)
  else .next s.illegal

/-- XST (R205). -/
def execXst (sl : Slot) (s : State) : Result :=
  if sl.pairFits then .next ((s.writeSlot sl s.xsk.toList).complete .ok)
  else .next s.illegal

end Sys2Proof.Machine
end

