-- ==== Sys2Proof/Machine/Dispatch.lean ====
section
/-!
DEFINITION. The meaning of every command: one arm per constructor of Instr.
-/

namespace Sys2Proof.Machine

def exec (i : Instr) (s : State) : Host.Outcome State Fault Refusal :=
  match i with
  | .fadd d a b => Sys2Proof.Machine.execFadd d a b s
  | .fsub d a b => Sys2Proof.Machine.execFsub d a b s
  | .fneg d a => Sys2Proof.Machine.execFneg d a s
  | .fmul d a b => Sys2Proof.Machine.execFmul d a b s
  | .fsqr d a => Sys2Proof.Machine.execFsqr d a s
  | .finv d a => Sys2Proof.Machine.execFinv d a s
  | .fexp d a => Sys2Proof.Machine.execFexp d a s
  | .fsqrt d e a => Sys2Proof.Machine.execFsqrt d e a s
  | .feq a b => Sys2Proof.Machine.execFeq a b s
  | .fpar a => Sys2Proof.Machine.execFpar a s
  | .fmov d a => Sys2Proof.Machine.execFmov d a s
  | .fldc d c => Sys2Proof.Machine.execFldc d c s
  | .fld d sl => Sys2Proof.Machine.execFld d sl s
  | .fst a sl => Sys2Proof.Machine.execFst a sl s
  | .padd d a b => Sys2Proof.Machine.execPadd d a b s
  | .pdbl d a => Sys2Proof.Machine.execPdbl d a s
  | .pneg d a => Sys2Proof.Machine.execPneg d a s
  | .peq a b => Sys2Proof.Machine.execPeq a b s
  | .pmov d a => Sys2Proof.Machine.execPmov d a s
  | .pldc d c => Sys2Proof.Machine.execPldc d c s
  | .paff d e a => Sys2Proof.Machine.execPaff d e a s
  | .pfaf d a b => Sys2Proof.Machine.execPfaf d a b s
  | .pdec d sl => Sys2Proof.Machine.execPdec d sl s
  | .penc a sl => Sys2Proof.Machine.execPenc a sl s
  | .smul d a w => Sys2Proof.Machine.execSmul d a w s
  | .kld sl w => Sys2Proof.Machine.execKld sl w s
  | .kst sl w => Sys2Proof.Machine.execKst sl w s
  | .xld sl => Sys2Proof.Machine.execXld sl s
  | .xst sl => Sys2Proof.Machine.execXst sl s
  | .derive => Sys2Proof.Machine.execDerive s
  | .sign => Sys2Proof.Machine.execSign s
  | .signp => Sys2Proof.Machine.execSignp s
  | .verify => Sys2Proof.Machine.execVerify s
  | .clr => Sys2Proof.Machine.execClr s

end Sys2Proof.Machine
end

