-- ==== Sys2Proof/Machine/Window.lean ====
section
/-!
DEFINITION. The host window (20_memory.md R60 to R70, R75): what a host access reads, writes and is answered, the reset input
(70_reset_and_hazards.md R290), and which of the agents takes the next step.
-/

namespace Sys2Proof.Machine

/-! ### The window map (R61) -/

/-- The rows of the window map. -/
inductive WindowRow where
  | cmd
  | status
  | msglen
  /-- A byte of the IO buffer or of the message memory. -/
  | memory
  /-- Reserved rows and everything above the window. -/
  | none
  deriving DecidableEq, Repr

/-- The offset is a byte of IO (R61). -/
def inIO (off : Nat) : Bool := 0x080 ≤ off && off < 0x100

/-- The offset is a byte of MSG (R61). -/
def inMSG (off : Nat) : Bool := 0x1000 ≤ off && off < 0x1000 + Config.msgMax

/-- The row of an offset that is a multiple of 4 (R61). -/
def windowRow (off : Nat) : WindowRow :=
  if off = 0x000 then .cmd
  else if off = 0x004 then .status
  else if off = 0x008 then .msglen
  else if inIO off || inMSG off then .memory
  else .none

/-- The access is an aligned 32-bit one in a mapped row, so it is not an access error (R63, R70). -/
def accessOk (width off : Nat) : Bool := width = 32 && off % 4 = 0 && windowRow off ≠ .none

/-! ### Reads and writes -/

/-- What a 32-bit read of a mapped offset returns (R64). -/
def State.hostRead32 (s : State) (off : Nat) : Word :=
  match windowRow off with
  | .cmd => 0
  | .status => s.statusWord
  | .msglen => s.msglen
  | .memory => BitVec.ofNat 32 (leInt (Memory.readBytes s.mem off 4))
  | .none => 0

/-- What a 32-bit write of a mapped offset does (R65, R66). -/
def State.hostWrite32 (s : State) (off : Nat) (v : Word) : State :=
  match windowRow off with
  | .cmd => s.latch v
  | .status => s
  | .msglen => { s with msglen := v }
  | .memory => { s with mem := Memory.writeBytes s.mem off (leBytes 4 v.toNat) }
  | .none => s

/-- The window's answer goes to the host. -/
def State.reply (s : State) (r : HostReply) : State := { s with replies := s.replies ++ [r] }

/-- One host access served to its end (R64, R65, R70). -/
def State.serve (s : State) (a : HostAccess) : State :=
  match a with
  | .read width off => if accessOk width off then s.reply (.data (s.hostRead32 off)) else s.reply .hostErr
  | .write width off v => if accessOk width off then (s.hostWrite32 off v).reply .ok else s.reply .hostErr

/-! ### Whose turn it is (R66, R68, R75) -/

/-- `HostRead32(0x004)`, the one access that is answered while BUSY (R68). -/
def HostAccess.isStatusRead : HostAccess → Bool
  | .read width off => width = 32 && off = 0x004
  | .write _ _ _ => false

/-- Which agent takes the next step. -/
inductive Turn where
  /-- Nothing is latched and nothing arrives: the unit keeps all state (60_exceptions.md R275). -/
  | idle
  /-- The oldest host event is taken. -/
  | host (e : HostEvent)
  /-- The unit's completion step for the latched word (R66). -/
  | unit (w : Word)
  deriving DecidableEq, Repr

/-- The turn. With nothing latched the oldest event is taken. With a command latched, a STATUS read or a reset is taken as long
as the busy interval lasts (the free value `busyLeft`); every other access is held until the completion step (R68). -/
def State.turn (s : State) : Turn :=
  match s.cmd, s.inputs with
  | none, [] => .idle
  | none, e :: _ => .host e
  | some w, [] => .unit w
  | some w, e :: _ =>
    match s.busyLeft, e with
    | 0, _ => .unit w
    | _ + 1, .reset => .host .reset
    | _ + 1, .access a => if a.isStatusRead then .host e else .unit w

/-- A host event is taken: an access is served, the reset input puts every piece of the spec's state at its reset value (R290;
the model's own record of the outside world goes on). DESIGN CHOICE (log entries 3 and 5): R290 leaves open whether a command that
reset abandons has already sent strings on the SHA-512 port; here it has sent none, since the record grows at completion alone. -/
def State.takeEvent (s : State) (e : HostEvent) : State :=
  match e with
  | .access a =>
    ({ s with inputs := s.inputs.tail, busyLeft := if s.busy then s.busyLeft - 1 else s.busyLeft } : State).serve a
  | .reset =>
    { State.reset with
      inputs := s.inputs.tail
      replies := s.replies
      hashSent := s.hashSent
      latches := s.latches }

end Sys2Proof.Machine
end

