-- ==== Sys2Proof/Machine/Step.lean ====
section
/-!
DEFINITION. One step of the machine (10_state.md R20, R34: "complete the latched command", not "fetch at pc").
-/

namespace Sys2Proof.Machine

/-- One step: a host event, or the completion step of the latched command word (20_memory.md R66, 30_encoding.md R101), or
nothing. -/
def step (s : State) : Host.Outcome State Fault Refusal :=
  match s.turn with
  | .idle => .next s
  | .host e => .next (s.takeEvent e)
  | .unit w =>
    match decode w with
    | .ok i => exec i s
    | .error _ => .next s.illegal

/-- The state in which the very next step runs the command of these bits: the word is latched as a CMD write latches it (BUSY
1, DONE 0, R66), and the busy interval is over. -/
def State.withFetchWord (s : State) (nbits w : Nat) : State :=
  { s with cmd := some (BitVec.ofNat 32 (w % 2 ^ nbits)), done := false, busyLeft := 0 }

end Sys2Proof.Machine
end

