-- ==== Sys2Proof/Machine/Trace.lean ====
section
/-!
DEFINITION. The operation trace of a command (70_reset_and_hazards.md R294 to R297, R300): the same computations as the meanings,
written so that each datapath operation is also recorded. The trace is NOT architectural state: no step reads it (log entry 8).
-/

namespace Sys2Proof.Machine

/-- The alphabet of R300; `hash n` sends n bytes. -/
inductive DatapathOp where
  | fadd
  | fsub
  | fneg
  | fmul
  | fsqr
  | finv
  | fexp
  | feq
  | padd
  | pdbl
  | hash (n : Nat)
  deriving DecidableEq, Repr

/-- A computation that records the operations it performs, in order. -/
abbrev Traced (α : Type) := StateM (List DatapathOp) α

/-- One operation is performed. -/
def perform {α : Type} (op : DatapathOp) (v : α) : Traced α := fun ops => (v, ops ++ [op])

/-! ### Field operations -/

def tFadd (x y : Fe) : Traced Fe := perform .fadd (fadd x y)

def tFsub (x y : Fe) : Traced Fe := perform .fsub (fsub x y)

def tFneg (x : Fe) : Traced Fe := perform .fneg (fneg x)

def tFmul (x y : Fe) : Traced Fe := perform .fmul (fmul x y)

def tFsqr (x : Fe) : Traced Fe := perform .fsqr (fsqr x)

def tFinv (x : Fe) : Traced Fe := perform .finv (finv x)

/-- `fexp` with a fixed, public exponent (R296). -/
def tFexp (x : Fe) (n : Nat) : Traced Fe := perform .fexp (fexp x n)

/-- Every limb is visited whatever the values (R295). -/
def tFeq (x y : Fe) : Traced Bool := perform .feq (feq x y)

/-- FEXP with the exponent in K: the multiply is always performed and its result selected (R296). -/
def tFexpLoop (x : Fe) (n : Nat) : Nat → Fe → Traced Fe
  | 0, r => pure r
  | i + 1, r => do
    let q ← tFsqr r
    let m ← tFmul q x
    tFexpLoop x n i (if n.testBit i then m else q)

/-- Both candidates, both squares, both comparisons, then a select (R296). -/
def tFsqrt (a : Fe) : Traced (Option (Fe × Fe)) := do
  let c1 ← tFexp a ((primeP + 3) / 8)
  let c2 ← tFmul c1 sqrtm1
  let q1 ← tFsqr c1
  let ok1 ← tFeq q1 a
  let q2 ← tFsqr c2
  let ok2 ← tFeq q2 a
  let r := if ok1 then c1 else c2
  let nr ← tFneg r
  return if ok1 || ok2 then some (r, nr) else none

/-! ### Point operations -/

def tPadd (P Q : Point) : Traced Point := perform .padd (padd P Q)

def tPdbl (P : Point) : Traced Point := perform .pdbl (pdbl P)

/-- What one `padd` is made of: the straight line of R160 (R294). -/
def tPaddLine (P Q : Point) : Traced Point := do
  let A ← tFmul (← tFsub P.Y P.X) (← tFsub Q.Y Q.X)
  let B ← tFmul (← tFadd P.Y P.X) (← tFadd Q.Y Q.X)
  let C ← tFmul (← tFmul P.T curve2D) Q.T
  let D ← tFmul (← tFmul P.Z (Fe.ofNat 2)) Q.Z
  let E ← tFsub B A
  let F ← tFsub D C
  let G ← tFadd D C
  let H ← tFadd B A
  return ⟨← tFmul E F, ← tFmul G H, ← tFmul E H, ← tFmul F G⟩

/-- What one `pdbl` is made of: the straight line of R161 (R294). -/
def tPdblLine (P : Point) : Traced Point := do
  let A ← tFsqr P.X
  let B ← tFsqr P.Y
  let C ← tFmul (Fe.ofNat 2) (← tFsqr P.Z)
  let H ← tFadd A B
  let E ← tFsub H (← tFsqr (← tFadd P.X P.Y))
  let G ← tFsub A B
  let F ← tFadd C G
  return ⟨← tFmul E F, ← tFmul G H, ← tFmul E H, ← tFmul F G⟩

def tPneg (P : Point) : Traced Point := do
  return ⟨← tFneg P.X, P.Y, ← tFneg P.T, P.Z⟩

def tPaff (P : Point) : Traced (Fe × Fe) := do
  let zi ← tFinv P.Z
  return (← tFmul P.X zi, ← tFmul P.Y zi)

/-- Two `finv`, four `fmul` and always both `feq` (R295). -/
def tPeq (P Q : Point) : Traced Bool := do
  let u ← tPaff P
  let v ← tPaff Q
  let e1 ← tFeq u.1 v.1
  let e2 ← tFeq u.2 v.2
  return e1 && e2

def tOnCurve (x y : Fe) : Traced Bool := do
  let xx ← tFsqr x
  let yy ← tFsqr y
  let lhs ← tFsub yy xx
  let m ← tFmul xx yy
  let dm ← tFmul curveD m
  let rhs ← tFadd (Fe.ofNat 1) dm
  tFeq lhs rhs

def tPfaf (x y : Fe) : Traced (Option Point) := do
  if ← tOnCurve x y then
    return some ⟨x, y, ← tFmul x y, Fe.ofNat 1⟩
  else
    return none

/-- Ends early at any of its three failures: what it decodes is public (R296). -/
def tPdec (b : List Byte) : Traced (Option Point) :=
  let v := leInt b
  let sign := v.testBit 255
  let yInt := v % 2 ^ 255
  if primeP ≤ yInt then pure none
  else do
    let y := Fe.ofNat yInt
    let y2 ← tFsqr y
    let u ← tFsub y2 (Fe.ofNat 1)
    let y2' ← tFsqr y
    let dy ← tFmul curveD y2'
    let w ← tFadd dy (Fe.ofNat 1)
    let wi ← tFinv w
    let t ← tFmul u wi
    match ← tFsqrt t with
    | none => return none
    | some (r, nr) =>
      let isZero ← tFeq r (Fe.ofNat 0)
      if sign && isZero then return none
      else
        let x := if r.val.testBit 0 = sign then r else nr
        return some ⟨x, y, ← tFmul x y, Fe.ofNat 1⟩

def tPenc (P : Point) : Traced (List Byte) := do
  let a ← tPaff P
  return leBytes 32 (a.2.val + 2 ^ 255 * (a.1.val % 2))

/-- One add and then one double in every iteration; only the assignment depends on the bit (R294). -/
def tLadder (n : Nat) : Nat → Point → Point → Traced Point
  | 0, R0, _ => pure R0
  | i + 1, R0, R1 => do
    let S ← tPadd R0 R1
    let D ← tPdbl (if n.testBit i then R1 else R0)
    if n.testBit i then tLadder n i S D else tLadder n i D S

def tSmul (P : Point) (n bits : Nat) : Traced Point := tLadder n bits Point.neutral P

/-! ### The sequencer (R297) -/

/-- A hash request; the reductions mod L and k·a + r have a fixed trace and no letter of their own (R297). -/
def tHash (m : List Byte) : Traced (List Byte) := perform (.hash m.length) (hashOf m)

def tDeriveKey (seed : List Byte) : Traced DerivedKey := do
  let h ← tHash seed
  let sb := clamp (h.take 32)
  let A ← tSmul basePoint (leInt sb) 256
  return ⟨sb, h.drop 32, ← tPenc A⟩

def tDeriveBody (s : State) : Traced State := do
  let key ← tDeriveKey (s.readSlot slotSeed)
  return ((((s.send [s.readSlot slotSeed]).writeXsk (bytes64 (key.scalarBytes ++ key.nonceKey))).writeSlot slotKey
    key.publicKey).scrub)

def tSignBody (s : State) : Traced State := do
  let pk := s.readSlot slotKey
  let m := s.message
  let h1 ← tHash (s.xskNonceKey ++ m)
  let r := leInt h1 % orderL
  let R ← tSmul basePoint r 256
  let Rb ← tPenc R
  let h2 ← tHash (Rb ++ pk ++ m)
  let k := leInt h2 % orderL
  let Sb := leBytes 32 ((k * leInt s.xskScalar + r) % orderL)
  return (((s.send [s.xskNonceKey ++ m, Rb ++ pk ++ m]).writeSlot slotR Rb).writeSlot slotS Sb).scrub

/-- VERIFY's inputs are public; it ends early on BadSignature and BadPublicKey (R297). -/
def tVerifyResult (Rb Sb Ab m : List Byte) : Traced (ResultCode × List (List Byte)) := do
  match ← tPdec Rb with
  | none => return (.badSignature, [])
  | some R =>
    if Config.strictS && decide (orderL ≤ leInt Sb) then return (.badSignature, [])
    else
      match ← tPdec Ab with
      | none => return (.badPublicKey, [])
      | some A =>
        let h ← tHash (Rb ++ Ab ++ m)
        let lhs ← tSmul basePoint (leInt Sb) 256
        let kA ← tSmul A (leInt h) 512
        let rhs ← tPadd R kA
        let same ← tPeq lhs rhs
        return (if same then .ok else .signatureNotMatchMessage, [Rb ++ Ab ++ m])

/-! ### Commands -/

/-- A command's completion step, with the operations it performs. -/
def tExec (i : Instr) (s : State) : Traced State :=
  match i with
  | .fadd d a b => do return (s.writeF d (← tFadd (s.readF a) (s.readF b))).complete .ok
  | .fsub d a b => do return (s.writeF d (← tFsub (s.readF a) (s.readF b))).complete .ok
  | .fneg d a => do return (s.writeF d (← tFneg (s.readF a))).complete .ok
  | .fmul d a b => do return (s.writeF d (← tFmul (s.readF a) (s.readF b))).complete .ok
  | .fsqr d a => do return (s.writeF d (← tFsqr (s.readF a))).complete .ok
  | .finv d a => do return (s.writeF d (← tFinv (s.readF a))).complete .ok
  | .fexp d a => do return (s.writeF d (← tFexpLoop (s.readF a) s.k.toNat 512 (Fe.ofNat 1))).complete .ok
  | .fsqrt d e a =>
    if d = e then pure s.illegal
    else do
      match ← tFsqrt (s.readF a) with
      | some (r, nr) => return (((s.writeF d r).writeF e nr).writeValid true).complete .ok
      | none => return (s.writeValid false).complete .ok
  | .feq a b => do return (s.writeEq (← tFeq (s.readF a) (s.readF b))).complete .ok
  | .fpar a => pure ((s.writeEven (feven (s.readF a))).complete .ok)
  | .fmov d a => pure ((s.writeF d (s.readF a)).complete .ok)
  | .fldc d c => pure ((s.writeF d (FieldConst.value c)).complete .ok)
  | .fld d sl => pure ((s.writeF d (Fe.ofNat (leInt (s.readSlot sl)))).complete .ok)
  | .fst a sl => pure ((s.writeSlot sl (leBytes 32 (s.readF a).val)).complete .ok)
  | .padd d a b => do return (s.writeP d (← tPadd (s.readP a) (s.readP b))).complete .ok
  | .pdbl d a => do return (s.writeP d (← tPdbl (s.readP a))).complete .ok
  | .pneg d a => do return (s.writeP d (← tPneg (s.readP a))).complete .ok
  | .peq a b => do return (s.writeEq (← tPeq (s.readP a) (s.readP b))).complete .ok
  | .pmov d a => pure ((s.writeP d (s.readP a)).complete .ok)
  | .pldc d c => pure ((s.writeP d (PointConst.value c)).complete .ok)
  | .paff d e a =>
    if d = e then pure s.illegal
    else do
      let xy ← tPaff (s.readP a)
      return ((s.writeF d xy.1).writeF e xy.2).complete .ok
  | .pfaf d a b => do
    match ← tPfaf (s.readF a) (s.readF b) with
    | some P => return ((s.writeP d P).writeValid true).complete .ok
    | none => return (s.writeValid false).complete .ok
  | .pdec d sl => do
    match ← tPdec (s.readSlot sl) with
    | some P => return ((s.writeP d P).writeValid true).complete .ok
    | none => return (s.writeValid false).complete .ok
  | .penc a sl => do return (s.writeSlot sl (← tPenc (s.readP a))).complete .ok
  | .smul d a w => do return (s.writeP d (← tSmul (s.readP a) (s.kSlice w) (Width.bits w))).complete .ok
  | .kld sl w =>
    pure (if kSpanFits sl w then (s.writeK (leInt (s.memRead .io (Slot.addr sl) (Width.bytes w)))).complete .ok else s.illegal)
  | .kst sl w =>
    pure (if kSpanFits sl w then (s.writeSlot sl (leBytes (Width.bytes w) (s.kSlice w))).complete .ok else s.illegal)
  | .xld sl => pure (if sl.pairFits then (s.writeXsk (bytes64 (s.readSlotPair sl))).complete .ok else s.illegal)
  | .xst sl => pure (if sl.pairFits then (s.writeSlot sl s.xsk.toList).complete .ok else s.illegal)
  | .derive => do return (← tDeriveBody s).complete .ok
  | .sign => if s.lengthOk then do return (← tSignBody (← tDeriveBody s)).complete .ok else pure (s.complete .badLength)
  | .signp => if s.lengthOk then do return (← tSignBody s).complete .ok else pure (s.complete .badLength)
  | .verify =>
    if s.lengthOk then do
      let v ← tVerifyResult (s.readSlot slotR) (s.readSlot slotS) (s.readSlot slotKey) s.message
      return ((s.send v.2).scrub).complete v.1
    else pure (s.complete .badLength)
  | .clr =>
    pure (({ s.scrub with
      xsk := Vector.replicate 64 0
      mem := []
      msglen := 0 } : State).complete .ok)

/-- The state a traced completion step gives. -/
def tracedState (i : Instr) (s : State) : State := (tExec i s []).1

/-- The operation trace of a command (R300). -/
def operationTrace (i : Instr) (s : State) : List DatapathOp := (tExec i s []).2

end Sys2Proof.Machine
end

