-- ==== Sys2Proof/Safety.lean ====
section
/-!
DEFINITION. What counts as a safe state and a clean command, in the terms the statements use: the invariant, valid points over
ZMod p, and frames.
-/

namespace Sys2Proof.Machine

/-! ### Frames (40_field.md R120) -/

/-- What a command may write. Everything it does not name stays as it was. -/
structure Touches where
  f : FReg → Bool := fun _ => false
  p : PReg → Bool := fun _ => false
  bytes : Nat → Bool := fun _ => false
  k : Bool := false
  xsk : Bool := false
  msglen : Bool := false
  valid : Bool := false
  eq : Bool := false
  even : Bool := false
  hashSent : Bool := false

/-- Everything `w` does not name is in `t` as it was in `s`: every register, every byte of memory, MSGLEN, the flags, ILL, what
has been sent on the SHA-512 port, and the host's side. -/
structure Unchanged (w : Touches) (s t : State) : Prop where
  f : ∀ r, w.f r = false → t.readF r = s.readF r
  p : ∀ r, w.p r = false → t.readP r = s.readP r
  bytes : ∀ a, w.bytes a = false → Memory.read t.mem a = Memory.read s.mem a
  k : w.k = false → t.k = s.k
  xsk : w.xsk = false → t.xsk = s.xsk
  msglen : w.msglen = false → t.msglen = s.msglen
  valid : w.valid = false → t.valid = s.valid
  eq : w.eq = false → t.eq = s.eq
  even : w.even = false → t.even = s.even
  hashSent : w.hashSent = false → t.hashSent = s.hashSent
  ill : t.ill = s.ill
  inputs : t.inputs = s.inputs
  replies : t.replies = s.replies
  busyLeft : t.busyLeft = s.busyLeft
  latches : t.latches = s.latches

/-- The command has completed with a result code: ERR = e, BUSY = 0, DONE = 1. -/
structure Ended (e : ResultCode) (t : State) : Prop where
  err : t.err = e
  idle : t.cmd = none
  done : t.done = true

/-- The registers the sequencer leaves scrubbed (43_sequencer.md R225). -/
structure Scrubbed (t : State) : Prop where
  f : ∀ r, (t.readF r).val = 0
  p : ∀ r, t.readP r = Point.neutral
  k : t.k = 0
  valid : t.valid = false
  eq : t.eq = false
  even : t.even = false

/-- What scrubbing writes. -/
def scrubTouches : Touches :=
  { f := fun _ => true, p := fun _ => true, k := true, valid := true, eq := true, even := true }

/-- The window offset of byte 0 of a slot: 0x080 + 32·s (20_memory.md R61). -/
def slotOffset (sl : Nat) : Nat := 0x080 + 32 * sl

/-- The offset is one of the `n` from `lo` on. -/
def within (lo n a : Nat) : Bool := lo ≤ a && a < lo + n

/-! ### Points over ZMod p (10_state.md R22) -/

/-- A field element in the ring of residues. -/
def Fe.toZ (x : Fe) : ZMod primeP := (x.val : ZMod primeP)

/-- The curve equation -x^2 + y^2 = 1 + d·x^2·y^2 (R22). -/
def CurveEq (x y : ZMod primeP) : Prop := -x ^ 2 + y ^ 2 = 1 + Fe.toZ curveD * x ^ 2 * y ^ 2

/-- The tuple stands for the affine point (x, y) of the curve: Z is not 0, X = x·Z, Y = y·Z, T = x·y·Z. -/
structure Represents (P : Point) (x y : ZMod primeP) : Prop where
  z_ne : Fe.toZ P.Z ≠ 0
  x_eq : Fe.toZ P.X = x * Fe.toZ P.Z
  y_eq : Fe.toZ P.Y = y * Fe.toZ P.Z
  t_eq : Fe.toZ P.T = x * y * Fe.toZ P.Z
  curve : CurveEq x y

/-- A valid point (R22). -/
def ValidPoint (P : Point) : Prop := ∃ x y, Represents P x y

/-- Two tuples stand for one affine point of the curve (41_point.md R166, 10_state.md R23). -/
def SameAffine (P Q : Point) : Prop := ∃ x y, Represents P x y ∧ Represents Q x y

/-- Every point register holds a valid point (R22). -/
def PointsValid (s : State) : Prop := ∀ r, ValidPoint (s.readP r)

/-- Two states that differ only in which tuple stands for each point register's affine point (R23). -/
structure SameUpToTuples (s s' : State) : Prop where
  rest : s' = { s with p := s'.p }
  points : ∀ r, SameAffine (s.readP r) (s'.readP r)

/-! ### The invariant of the machine -/

/-- What every step keeps: memory in canonical form, listing only bytes of IO and MSG, and DONE = 0 while BUSY. -/
structure Inv (s : State) : Prop where
  memory : Memory.wf s.mem
  mapped : ∀ c ∈ s.mem, inIO c.1 || inMSG c.1
  latched : s.cmd.isSome → s.done = false

/-- The completion step is the next step: nothing is waiting, or the busy interval is over, or the oldest event is an access
that is held (20_memory.md R68). -/
def CompletionDue (s : State) : Prop :=
  s.inputs = [] ∨ s.busyLeft = 0 ∨ ∃ a rest, s.inputs = .access a :: rest ∧ a ≠ .read 32 4

/-! ### Host accesses (20_memory.md R61, R63, R70) -/

/-- The width in bits of an access. -/
def HostAccess.width : HostAccess → Nat
  | .read width _ => width
  | .write width _ _ => width

/-- The byte offset of an access. -/
def HostAccess.off : HostAccess → Nat
  | .read _ off => off
  | .write _ off _ => off

/-- An offset of a mapped row of the window (R61), a multiple of 4 (R63). -/
def MappedOffset (off : Nat) : Prop :=
  off % 4 = 0 ∧ (off = 0 ∨ off = 4 ∨ off = 8 ∨ (0x080 ≤ off ∧ off < 0x100) ∨
    (0x1000 ≤ off ∧ off < 0x1000 + Config.msgMax))

/-- An access error: another width than 32 bits, an offset that is not a multiple of 4, or an offset in a reserved or outside
row (R70). -/
def AccessError (a : HostAccess) : Prop :=
  a.width ≠ 32 ∨ a.off % 4 ≠ 0 ∨ (0x00C ≤ a.off ∧ a.off < 0x080) ∨ (0x100 ≤ a.off ∧ a.off < 0x1000) ∨
    0x1000 + Config.msgMax ≤ a.off

/-! ### Formats (30_encoding.md R91, R92, R96), a second account of legality beside the masks -/

/-- The fields of a word as numbers (R91). -/
structure WordFields where
  op : Nat
  d : Nat
  a : Nat
  b : Nat
  e : Nat
  imm : Nat

/-- Taking a word apart (R91). -/
def WordFields.of (w : Word) : WordFields :=
  let n := w.toNat
  ⟨n / 2 ^ 24, n / 2 ^ 20 % 16, n / 2 ^ 16 % 16, n / 2 ^ 12 % 16, n / 2 ^ 8 % 16, n % 2 ^ 8⟩

/-- The formats of R92 and the constraints of R96: which field values each opcode admits. -/
def FormatAdmits (x : WordFields) : Prop :=
  -- FFF: FADD, FSUB, FMUL
  (x.op ∈ [0x10, 0x11, 0x13] ∧ x.d ≤ 7 ∧ x.a ≤ 7 ∧ x.b ≤ 7 ∧ x.e = 0 ∧ x.imm = 0) ∨
  -- FF: FNEG, FSQR, FINV, FEXP, FMOV
  (x.op ∈ [0x12, 0x14, 0x15, 0x16, 0x1A] ∧ x.d ≤ 7 ∧ x.a ≤ 7 ∧ x.b = 0 ∧ x.e = 0 ∧ x.imm = 0) ∨
  -- FFE: FSQRT
  (x.op = 0x17 ∧ x.d ≤ 7 ∧ x.a ≤ 7 ∧ x.b = 0 ∧ x.e ≤ 7 ∧ x.e ≠ x.d ∧ x.imm = 0) ∨
  -- CF: FEQ
  (x.op = 0x18 ∧ x.d = 0 ∧ x.a ≤ 7 ∧ x.b ≤ 7 ∧ x.e = 0 ∧ x.imm = 0) ∨
  -- TF: FPAR
  (x.op = 0x19 ∧ x.d = 0 ∧ x.a ≤ 7 ∧ x.b = 0 ∧ x.e = 0 ∧ x.imm = 0) ∨
  -- FI: FLDC, FLD
  (x.op ∈ [0x1B, 0x1C] ∧ x.d ≤ 7 ∧ x.a = 0 ∧ x.b = 0 ∧ x.e = 0 ∧ x.imm ≤ 3) ∨
  -- SF: FST
  (x.op = 0x1D ∧ x.d = 0 ∧ x.a ≤ 7 ∧ x.b = 0 ∧ x.e = 0 ∧ x.imm ≤ 3) ∨
  -- PPP: PADD
  (x.op = 0x20 ∧ x.d ≤ 3 ∧ x.a ≤ 3 ∧ x.b ≤ 3 ∧ x.e = 0 ∧ x.imm = 0) ∨
  -- PP: PDBL, PNEG, PMOV
  (x.op ∈ [0x21, 0x22, 0x24] ∧ x.d ≤ 3 ∧ x.a ≤ 3 ∧ x.b = 0 ∧ x.e = 0 ∧ x.imm = 0) ∨
  -- CP: PEQ
  (x.op = 0x23 ∧ x.d = 0 ∧ x.a ≤ 3 ∧ x.b ≤ 3 ∧ x.e = 0 ∧ x.imm = 0) ∨
  -- PI: PLDC (c ≤ 1), PDEC (s ≤ 3)
  (x.op = 0x25 ∧ x.d ≤ 3 ∧ x.a = 0 ∧ x.b = 0 ∧ x.e = 0 ∧ x.imm ≤ 1) ∨
  (x.op = 0x28 ∧ x.d ≤ 3 ∧ x.a = 0 ∧ x.b = 0 ∧ x.e = 0 ∧ x.imm ≤ 3) ∨
  -- SP: PENC
  (x.op = 0x29 ∧ x.d = 0 ∧ x.a ≤ 3 ∧ x.b = 0 ∧ x.e = 0 ∧ x.imm ≤ 3) ∨
  -- FPE: PAFF
  (x.op = 0x26 ∧ x.d ≤ 7 ∧ x.a ≤ 3 ∧ x.b = 0 ∧ x.e ≤ 7 ∧ x.e ≠ x.d ∧ x.imm = 0) ∨
  -- PFF: PFAF
  (x.op = 0x27 ∧ x.d ≤ 3 ∧ x.a ≤ 7 ∧ x.b ≤ 7 ∧ x.e = 0 ∧ x.imm = 0) ∨
  -- PPW: SMUL
  (x.op = 0x2A ∧ x.d ≤ 3 ∧ x.a ≤ 3 ∧ x.b = 0 ∧ x.e = 0 ∧ x.imm ≤ 1) ∨
  -- KI: KLD, KST: imm[1:0] = s, imm[4] = w, w = 1 needs s ≤ 2
  (x.op ∈ [0x30, 0x31] ∧ x.d = 0 ∧ x.a = 0 ∧ x.b = 0 ∧ x.e = 0 ∧ (x.imm ≤ 3 ∨ (16 ≤ x.imm ∧ x.imm ≤ 18))) ∨
  -- XI: XLD, XST
  (x.op ∈ [0x32, 0x33] ∧ x.d = 0 ∧ x.a = 0 ∧ x.b = 0 ∧ x.e = 0 ∧ x.imm ≤ 2) ∨
  -- Z: DERIVE, SIGN, SIGNP, VERIFY, CLR
  (x.op ∈ [0x40, 0x41, 0x42, 0x43, 0x44] ∧ x.d = 0 ∧ x.a = 0 ∧ x.b = 0 ∧ x.e = 0 ∧ x.imm = 0)

end Sys2Proof.Machine
end

