-- ==== Sys2Proof/Certificates/Slice0/Obligations.lean ====
section
/-!
DEFINITION. The statements for the provers, one `def Obligations.<Name> : Prop` each, in the order of the spec's rules. A
statement that rests on a choice of the model names its log entry.
-/

open Sys2Proof Sys2Proof.Machine

/-! ### Reset, decoding, the step -/

/-- 10_state.md R37: what reset leaves, piece by piece. -/
def Obligations.ResetLeavesEveryPieceAtItsValue : Prop :=
  (∀ r, (State.reset.readF r).val = 0) ∧
  (∀ r, (State.reset.readP r).X.val = 0 ∧ (State.reset.readP r).Y.val = 1 ∧ (State.reset.readP r).T.val = 0 ∧
    (State.reset.readP r).Z.val = 1) ∧
  State.reset.k = 0 ∧
  (∀ i : Fin 64, State.reset.xsk[i] = 0) ∧
  (∀ a, Memory.read State.reset.mem a = 0) ∧
  State.reset.msglen = 0 ∧
  State.reset.statusWord = 0 ∧
  State.reset.cmd = none ∧ State.reset.done = false ∧ State.reset.ill = false ∧ State.reset.valid = false ∧
  State.reset.eq = false ∧ State.reset.even = false ∧ State.reset.err = .ok

/-- Words of every family, written out from the field layout of 30_encoding.md R91 (most of them the examples of the command
rules), decode to the commands they stand for; three illegal words of 95_test_vectors.md section 3.11 do not decode. -/
def Obligations.WrittenOutWordsDecode : Prop :=
  decode 0x10201000 = .ok (.fadd 2 0 1) ∧
  decode 0x17200300 = .ok (.fsqrt 2 3 0) ∧
  decode 0x1B300002 = .ok (.fldc 3 .d) ∧
  decode 0x1D010000 = .ok (.fst 1 0) ∧
  decode 0x20201000 = .ok (.padd 2 0 1) ∧
  decode 0x26000100 = .ok (.paff 0 1 0) ∧
  decode 0x2A100001 = .ok (.smul 1 0 .wide) ∧
  decode 0x30000011 = .ok (.kld 1 .wide) ∧
  decode 0x33000000 = .ok (.xst 0) ∧
  decode 0x43000000 = .ok .verify ∧
  decode 0x00000000 = .error (.unknownOpcode 0) ∧
  decode 0x10800000 = .error (.fieldOutOfFormat .FADD) ∧
  decode 0x30000013 = .error (.operandsConflict .KLD)

/-- Every well-formed command, with every operand at every value its encoding admits, decodes from its own word. -/
def Obligations.DecodeOfEncodeIsTheCommand : Prop :=
  ∀ i : Instr, i.wf = true → decode (encode i) = .ok i

/-- Every word that decodes is the encoding of the well-formed command it decodes to: no two words mean one command, and no bit
of a legal word is dropped. -/
def Obligations.EncodeOfDecodeIsTheWord : Prop :=
  ∀ (w : Word) (i : Instr), decode w = .ok i → i.wf = true ∧ encode i = w

/-- 30_encoding.md R96: the legal words, which the decoder finds with masks (R95), are exactly those whose fields fit the formats
of R92; and an illegal word changes no data state. -/
def Obligations.WordIsLegalExactlyWhenItsFieldsFit : Prop :=
  (∀ w : Word, (∃ i, decode w = .ok i) ↔ FormatAdmits (WordFields.of w)) ∧
  (∀ (s : State) (w : Word), s.cmd = some w → CompletionDue s → ¬FormatAdmits (WordFields.of w) →
    ∃ t, step s = .next t ∧ Ended .illegalCommand t ∧ t.ill = true ∧
      t = { s with err := t.err, ill := t.ill, cmd := t.cmd, done := t.done })

/-- When the latched word decodes and the completion step is due, the step is exec of the command in that very state; and with the
bits of a command placed by `withFetchWord`, the very next step runs that command. -/
def Obligations.StepRunsTheDecodedCommand : Prop :=
  (∀ (s : State) (w : Word) (i : Instr), s.cmd = some w → CompletionDue s → decode w = .ok i → step s = exec i s) ∧
  (∀ (s : State) (nbits w : Nat) (i : Instr), decodeTableWord nbits w = some i →
    step (s.withFetchWord nbits w) = exec i (s.withFetchWord nbits w))

/-- 60_exceptions.md R263: an illegal word completes with ERR = 4 and ILL = 1 and changes nothing else; ILL stays 1 until reset;
a legal command overwrites the code. -/
def Obligations.IllegalWordSetsStickyIll : Prop :=
  (∀ (s : State) (w : Word) (e : DecodeError), s.cmd = some w → CompletionDue s → decode w = .error e →
    ∃ t, step s = .next t ∧ Ended .illegalCommand t ∧ t.ill = true ∧
      t = { s with err := t.err, ill := t.ill, cmd := t.cmd, done := t.done }) ∧
  (∀ s t : State, step s = .next t → s.ill = true → t.ill = true ∨ s.inputs.head? = some .reset) ∧
  (∀ (i : Instr) (s t : State), i.wf = true → exec i s = .next t → t.err ≠ .illegalCommand)

/-- Nothing stops the machine: every state has a next state. -/
def Obligations.EveryStepAnswersANextState : Prop :=
  ∀ s : State, ∃ t, step s = .next t

/-- Every latched command completes (20_memory.md R66): after at most as many host events as its busy interval sees, the
completion step has run; DONE is 1 unless a reset came. The length of the interval is the free value of log entry 4. -/
def Obligations.LatchedCommandCompletes : Prop :=
  ∀ (s : State) (w : Word), s.cmd = some w →
    ∃ n t, n ≤ s.busyLeft ∧ Host.Core.run Sys2Proof.core (n + 1) s = .next t ∧ t.cmd = none ∧
      (HostEvent.reset ∉ s.inputs → t.done = true)

/-- While BUSY, a step either answers a STATUS read with 0x00000001 and changes nothing else, or takes a reset, or completes the
command with every waiting access still held (20_memory.md R68; the choice is the free value of log entry 4). -/
def Obligations.BusyWindowAnswersOnlyStatusReads : Prop :=
  ∀ (s t : State) (w : Word), s.cmd = some w → step s = .next t →
    (∃ rest, s.inputs = .access (.read 32 4) :: rest ∧
      t = { s with inputs := rest, replies := s.replies ++ [.data 1], busyLeft := s.busyLeft - 1 }) ∨
    (s.inputs.head? = some .reset ∧ t.cmd = none ∧ t.replies = s.replies) ∨
    (t.cmd = none ∧ t.done = true ∧ t.inputs = s.inputs ∧ t.replies = s.replies)

/-! ### The host window (20_memory.md) -/

/-- R64: what a 32-bit read of a mapped offset returns, and that it changes no state. -/
def Obligations.HostReadReturnsTheMappedData : Prop :=
  ∀ (s : State) (off : Nat) (rest : List HostEvent), s.cmd = none → s.inputs = .access (.read 32 off) :: rest →
    MappedOffset off →
    ∃ w, step s = .next { s with inputs := rest, replies := s.replies ++ [.data w] } ∧
      (off = 0 → w = 0) ∧ (off = 4 → w = s.statusWord) ∧ (off = 8 → w = s.msglen) ∧
      (0x080 ≤ off → ∀ i, i < 4 → w.extractLsb' (8 * i) 8 = Memory.read s.mem (off + i))

/-- R65: what a 32-bit write of a mapped offset does; a write of CMD latches the word and sets BUSY, clears DONE. -/
def Obligations.HostWriteChangesTheMappedLocation : Prop :=
  ∀ (s : State) (off : Nat) (v : Word) (rest : List HostEvent), Memory.wf s.mem → s.cmd = none →
    s.inputs = .access (.write 32 off v) :: rest → MappedOffset off →
    ∃ t, step s = .next t ∧ t.inputs = rest ∧ t.replies = s.replies ++ [.ok] ∧
      (off = 0 → t.cmd = some v ∧ t.done = false ∧
        t = { s with inputs := t.inputs, replies := t.replies, cmd := t.cmd, done := t.done, busyLeft := t.busyLeft,
                     latches := t.latches }) ∧
      (off = 4 → t = { s with inputs := t.inputs, replies := t.replies }) ∧
      (off = 8 → t = { s with inputs := t.inputs, replies := t.replies, msglen := v }) ∧
      (0x080 ≤ off → t = { s with inputs := t.inputs, replies := t.replies, mem := t.mem } ∧
        (∀ i, i < 4 → Memory.read t.mem (off + i) = v.extractLsb' (8 * i) 8) ∧
        (∀ a, within off 4 a = false → Memory.read t.mem a = Memory.read s.mem a))

/-- R70: an access error changes no state and is answered with an error; while BUSY it is first held. -/
def Obligations.AccessErrorChangesNoState : Prop :=
  ∀ (s : State) (a : HostAccess) (rest : List HostEvent), s.inputs = .access a :: rest → AccessError a →
    (s.cmd = none → step s = .next { s with inputs := rest, replies := s.replies ++ [.hostErr] }) ∧
    (∀ w, s.cmd = some w → ∃ t, step s = .next t ∧ t.cmd = none ∧ t.inputs = s.inputs ∧ t.replies = s.replies)

/-- The reset input puts every piece of the spec's state at its reset value and abandons a command (70_reset_and_hazards.md R290);
that the model's record of the outside world goes on is log entries 2 to 5, and that an abandoned command adds no string to the
record of hash requests is the model's choice (log entries 3 and 5). -/
def Obligations.ResetInputRestoresTheResetState : Prop :=
  ∀ (s : State) (rest : List HostEvent), s.inputs = .reset :: rest → (s.cmd = none ∨ 0 < s.busyLeft) →
    step s = .next { State.reset with
      inputs := rest, replies := s.replies, hashSent := s.hashSent, latches := s.latches }

/-- The STATUS word, bit by bit (10_state.md R28): 0x00000001 while BUSY; else DONE, ILL, VALID, EQ, EVEN, the four bits of the
result code, and 0 in every reserved bit. -/
def Obligations.StatusWordHoldsItsFields : Prop :=
  ∀ s : State,
    (s.cmd ≠ none → s.statusWord = 1) ∧
    (s.cmd = none →
      s.statusWord.getLsbD 0 = false ∧ s.statusWord.getLsbD 1 = s.done ∧ s.statusWord.getLsbD 2 = s.ill ∧
      s.statusWord.getLsbD 3 = s.valid ∧ s.statusWord.getLsbD 4 = s.eq ∧ s.statusWord.getLsbD 5 = s.even ∧
      s.statusWord.getLsbD 6 = false ∧ s.statusWord.getLsbD 7 = false ∧
      (s.statusWord.extractLsb' 8 4).toNat =
        (match s.err with
          | .ok => 0
          | .badSignature => 1
          | .badPublicKey => 2
          | .signatureNotMatchMessage => 3
          | .illegalCommand => 4
          | .badLength => 5) ∧
      ∀ i, 12 ≤ i → s.statusWord.getLsbD i = false)

/-- The window gives no way to F, P, K and XSK but commands (20_memory.md R69): while nothing is latched, an access leaves them and
the result flags as they are, and its answer does not depend on them. -/
def Obligations.HostAccessesDoNotReachTheDatapath : Prop :=
  ∀ (s s' t t' : State) (a : HostAccess) (rest : List HostEvent), s.cmd = none → s.inputs = .access a :: rest →
    s' = { s with f := s'.f, p := s'.p, k := s'.k, xsk := s'.xsk } → step s = .next t → step s' = .next t' →
    t.replies = t'.replies ∧ t.f = s.f ∧ t.p = s.p ∧ t.k = s.k ∧ t.xsk = s.xsk ∧ t.valid = s.valid ∧ t.eq = s.eq ∧
      t.even = s.even ∧ t.err = s.err ∧ t.ill = s.ill

/-! ### Field unit (40_field.md) -/

/-- R121. -/
def Obligations.FieldAdditionResult : Prop :=
  ∀ (d a b : FReg) (s : State),
    decode (assemble 0x10 d a b 0 0) = .ok (.fadd d a b) ∧
    ∃ t, exec (.fadd d a b) s = .next t ∧ Ended .ok t ∧ Unchanged { f := fun r => r = d } s t ∧
      (t.readF d).val = ((s.readF a).val + (s.readF b).val) % primeP

/-- R122. -/
def Obligations.FieldSubtractionResult : Prop :=
  ∀ (d a b : FReg) (s : State),
    decode (assemble 0x11 d a b 0 0) = .ok (.fsub d a b) ∧
    ∃ t, exec (.fsub d a b) s = .next t ∧ Ended .ok t ∧ Unchanged { f := fun r => r = d } s t ∧
      ((t.readF d).val : Int) = (((s.readF a).val : Int) - ((s.readF b).val : Int)) % (primeP : Int)

/-- R123, with the parity corner: the negative of a non-zero element has the other parity. -/
def Obligations.FieldNegationResult : Prop :=
  ∀ (d a : FReg) (s : State),
    decode (assemble 0x12 d a 0 0 0) = .ok (.fneg d a) ∧
    ∃ t, exec (.fneg d a) s = .next t ∧ Ended .ok t ∧ Unchanged { f := fun r => r = d } s t ∧
      ((t.readF d).val : Int) = (-((s.readF a).val : Int)) % (primeP : Int) ∧
      ((s.readF a).val ≠ 0 → (t.readF d).val % 2 ≠ (s.readF a).val % 2)

/-- R124. -/
def Obligations.FieldMultiplicationResult : Prop :=
  ∀ (d a b : FReg) (s : State),
    decode (assemble 0x13 d a b 0 0) = .ok (.fmul d a b) ∧
    ∃ t, exec (.fmul d a b) s = .next t ∧ Ended .ok t ∧ Unchanged { f := fun r => r = d } s t ∧
      (t.readF d).val = (s.readF a).val * (s.readF b).val % primeP

/-- R125: the square, which is what FMUL gives with one source twice, in every case. -/
def Obligations.FieldSquaringResult : Prop :=
  ∀ (d a : FReg) (s : State),
    decode (assemble 0x14 d a 0 0 0) = .ok (.fsqr d a) ∧
    exec (.fsqr d a) s = exec (.fmul d a a) s ∧
    ∃ t, exec (.fsqr d a) s = .next t ∧ Ended .ok t ∧ Unchanged { f := fun r => r = d } s t ∧
      (t.readF d).val = (s.readF a).val ^ 2 % primeP

/-- R126: x^(p-2); 0 for 0; the inverse law for every other x. -/
def Obligations.FieldInversionResult : Prop :=
  ∀ (d a : FReg) (s : State),
    decode (assemble 0x15 d a 0 0 0) = .ok (.finv d a) ∧
    ∃ t, exec (.finv d a) s = .next t ∧ Ended .ok t ∧ Unchanged { f := fun r => r = d } s t ∧
      Fe.toZ (t.readF d) = Fe.toZ (s.readF a) ^ (primeP - 2) ∧
      ((s.readF a).val = 0 → (t.readF d).val = 0) ∧
      ((s.readF a).val ≠ 0 → (s.readF a).val * (t.readF d).val % primeP = 1)

/-- R127: the power with the whole of K as exponent, 1 for exponent 0. -/
def Obligations.FieldExponentiationResult : Prop :=
  ∀ (d a : FReg) (s : State),
    decode (assemble 0x16 d a 0 0 0) = .ok (.fexp d a) ∧
    ∃ t, exec (.fexp d a) s = .next t ∧ Ended .ok t ∧ Unchanged { f := fun r => r = d } s t ∧
      Fe.toZ (t.readF d) = Fe.toZ (s.readF a) ^ s.k.toNat ∧
      (s.k = 0 → (t.readF d).val = 1)

/-- R128: VALID says whether the radicand is a square; r is the first candidate that squares to it, -r its negative; without a
root the destinations keep their values. -/
def Obligations.SquareRootResult : Prop :=
  ∀ (d e a : FReg) (s : State), d ≠ e →
    decode (assemble 0x17 d a 0 e 0) = .ok (.fsqrt d e a) ∧
    ∃ t, exec (.fsqrt d e a) s = .next t ∧ Ended .ok t ∧
      Unchanged { f := fun r => r = d ∨ r = e, valid := true } s t ∧
      (t.valid = true ↔ IsSquare (Fe.toZ (s.readF a))) ∧
      (t.valid = true →
        Fe.toZ (t.readF d) ^ 2 = Fe.toZ (s.readF a) ∧
        Fe.toZ (t.readF e) = -Fe.toZ (t.readF d) ∧
        ((Fe.toZ (s.readF a) ^ ((primeP + 3) / 8)) ^ 2 = Fe.toZ (s.readF a) →
          Fe.toZ (t.readF d) = Fe.toZ (s.readF a) ^ ((primeP + 3) / 8)) ∧
        ((Fe.toZ (s.readF a) ^ ((primeP + 3) / 8)) ^ 2 ≠ Fe.toZ (s.readF a) →
          Fe.toZ (t.readF d) = Fe.toZ (s.readF a) ^ ((primeP + 3) / 8) * 2 ^ ((primeP - 1) / 4))) ∧
      (t.valid = false → t.readF d = s.readF d ∧ t.readF e = s.readF e)

/-- R129 and R130: EQ says whether the canonical integers are equal, and the OR over the XORs of the limbs is 0 exactly then, for
every limb width that covers the 255 bits; EVEN says whether the canonical integer is even. -/
def Obligations.FieldComparisonAndParityResult : Prop :=
  (∀ (a b : FReg) (s : State),
    decode (assemble 0x18 0 a b 0 0) = .ok (.feq a b) ∧
    ∃ t, exec (.feq a b) s = .next t ∧ Ended .ok t ∧ Unchanged { eq := true } s t ∧
      (t.eq = true ↔ (s.readF a).val = (s.readF b).val)) ∧
  (∀ (width n : Nat) (x y : Fe), 255 ≤ width * n →
    (limbDifference width n x.val y.val = 0 ↔ feq x y = true)) ∧
  (∀ (a : FReg) (s : State),
    decode (assemble 0x19 0 a 0 0 0) = .ok (.fpar a) ∧
    ∃ t, exec (.fpar a) s = .next t ∧ Ended .ok t ∧ Unchanged { even := true } s t ∧
      (t.even = true ↔ (s.readF a).val % 2 = 0))

/-- R131 and 41_point.md R163: a move copies its source, whole, and changes nothing else. -/
def Obligations.MovesCopyTheirSource : Prop :=
  (∀ (d a : FReg) (s : State),
    decode (assemble 0x1A d a 0 0 0) = .ok (.fmov d a) ∧
    ∃ t, exec (.fmov d a) s = .next t ∧ Ended .ok t ∧ Unchanged { f := fun r => r = d } s t ∧
      t.readF d = s.readF a) ∧
  (∀ (d a : PReg) (s : State),
    decode (assemble 0x24 d a 0 0 0) = .ok (.pmov d a) ∧
    ∃ t, exec (.pmov d a) s = .next t ∧ Ended .ok t ∧ Unchanged { p := fun r => r = d } s t ∧
      t.readP d = s.readP a)

/-- R132: the four constants of FLDC, as integers, with what makes them d and SQRTM1. -/
def Obligations.FieldConstantsLoad : Prop :=
  (∀ (d : FReg) (s : State), ∀ row ∈ [((0 : Nat), FieldConst.zero, (0 : Nat)), (1, .one, 1),
      (2, .d, 0x52036cee2b6ffe738cc740797779e89800700a4d4141d8ab75eb4dca135978a3),
      (3, .sqrtm1, 0x2b8324804fc1df0b2b4d00993dfbd7a72f431806ad2fe478c4ee1b274a0ea0b0)],
    decode (assemble 0x1B d 0 0 0 row.1) = .ok (.fldc d row.2.1) ∧
    ∃ t, exec (.fldc d row.2.1) s = .next t ∧ Ended .ok t ∧ Unchanged { f := fun r => r = d } s t ∧
      (t.readF d).val = row.2.2) ∧
  Fe.toZ (FieldConst.value .d) * 121666 = -121665 ∧
  Fe.toZ (FieldConst.value .sqrtm1) = 2 ^ ((primeP - 1) / 4)

/-! ### Point unit (41_point.md) -/

/-- R160: the unified addition formula, as ring expressions, on every pair of tuples; and it is symmetric. Which representative
results is the formula's choice (log entry 6). -/
def Obligations.PointAdditionFormula : Prop :=
  ∀ (d a b : PReg) (s : State),
    decode (assemble 0x20 d a b 0 0) = .ok (.padd d a b) ∧
    exec (.padd d a b) s = exec (.padd d b a) s ∧
    ∃ t, exec (.padd d a b) s = .next t ∧ Ended .ok t ∧ Unchanged { p := fun r => r = d } s t ∧
      ∀ X1 Y1 T1 Z1 X2 Y2 T2 Z2 : ZMod primeP,
        X1 = Fe.toZ (s.readP a).X → Y1 = Fe.toZ (s.readP a).Y → T1 = Fe.toZ (s.readP a).T → Z1 = Fe.toZ (s.readP a).Z →
        X2 = Fe.toZ (s.readP b).X → Y2 = Fe.toZ (s.readP b).Y → T2 = Fe.toZ (s.readP b).T → Z2 = Fe.toZ (s.readP b).Z →
        ∀ A B C D : ZMod primeP, A = (Y1 - X1) * (Y2 - X2) → B = (Y1 + X1) * (Y2 + X2) →
          C = T1 * (2 * Fe.toZ curveD) * T2 → D = Z1 * 2 * Z2 →
          Fe.toZ (t.readP d).X = (B - A) * (D - C) ∧ Fe.toZ (t.readP d).Y = (D + C) * (B + A) ∧
          Fe.toZ (t.readP d).T = (B - A) * (B + A) ∧ Fe.toZ (t.readP d).Z = (D - C) * (D + C)

/-- R161: the dedicated doubling formula, as ring expressions; for a valid point its affine point is that of the addition of the
point to itself. -/
def Obligations.PointDoublingFormula : Prop :=
  ∀ (d a : PReg) (s : State),
    decode (assemble 0x21 d a 0 0 0) = .ok (.pdbl d a) ∧
    ∃ t, exec (.pdbl d a) s = .next t ∧ Ended .ok t ∧ Unchanged { p := fun r => r = d } s t ∧
      (ValidPoint (s.readP a) → SameAffine (t.readP d) (padd (s.readP a) (s.readP a))) ∧
      ∀ X1 Y1 Z1 : ZMod primeP,
        X1 = Fe.toZ (s.readP a).X → Y1 = Fe.toZ (s.readP a).Y → Z1 = Fe.toZ (s.readP a).Z →
        ∀ A B C E F G H : ZMod primeP, A = X1 ^ 2 → B = Y1 ^ 2 → C = 2 * Z1 ^ 2 → H = A + B → E = H - (X1 + Y1) ^ 2 →
          G = A - B → F = C + G →
          Fe.toZ (t.readP d).X = E * F ∧ Fe.toZ (t.readP d).Y = G * H ∧ Fe.toZ (t.readP d).T = E * H ∧
          Fe.toZ (t.readP d).Z = F * G

/-- R162. -/
def Obligations.PointNegationFormula : Prop :=
  ∀ (d a : PReg) (s : State),
    decode (assemble 0x22 d a 0 0 0) = .ok (.pneg d a) ∧
    ∃ t, exec (.pneg d a) s = .next t ∧ Ended .ok t ∧ Unchanged { p := fun r => r = d } s t ∧
      Fe.toZ (t.readP d).X = -Fe.toZ (s.readP a).X ∧ (t.readP d).Y = (s.readP a).Y ∧
      Fe.toZ (t.readP d).T = -Fe.toZ (s.readP a).T ∧ (t.readP d).Z = (s.readP a).Z ∧
      pneg (t.readP d) = s.readP a

/-- R164: the two constants of PLDC, as integers. -/
def Obligations.PointConstantsLoad : Prop :=
  ∀ (d : PReg) (s : State), ∀ row ∈ [((0 : Nat), PointConst.neutral, (0 : Nat), (1 : Nat), (0 : Nat)),
      (1, .base, 0x216936d3cd6e53fec0a4e231fdd6dc5c692cc7609525a7b2c9562d608f25d51a,
        0x6666666666666666666666666666666666666666666666666666666666666658,
        0x67875f0fd78b766566ea4e8e64abe37d20f09f80775152f56dde8ab3a5b7dda3)],
    decode (assemble 0x25 d 0 0 0 row.1) = .ok (.pldc d row.2.1) ∧
    ∃ t, exec (.pldc d row.2.1) s = .next t ∧ Ended .ok t ∧ Unchanged { p := fun r => r = d } s t ∧
      (t.readP d).X.val = row.2.2.1 ∧ (t.readP d).Y.val = row.2.2.2.1 ∧ (t.readP d).T.val = row.2.2.2.2 ∧
      (t.readP d).Z.val = 1 ∧ ValidPoint (t.readP d)

/-- R166: EQ says whether the affine points are equal (said by cross-multiplication, for tuples with Z not 0). -/
def Obligations.PointEqualityComparesAffinePoints : Prop :=
  ∀ (a b : PReg) (s : State),
    decode (assemble 0x23 0 a b 0 0) = .ok (.peq a b) ∧
    ∃ t, exec (.peq a b) s = .next t ∧ Ended .ok t ∧ Unchanged { eq := true } s t ∧
      ((s.readP a).Z.val ≠ 0 → (s.readP b).Z.val ≠ 0 →
        (t.eq = true ↔
          Fe.toZ (s.readP a).X * Fe.toZ (s.readP b).Z = Fe.toZ (s.readP b).X * Fe.toZ (s.readP a).Z ∧
          Fe.toZ (s.readP a).Y * Fe.toZ (s.readP b).Z = Fe.toZ (s.readP b).Y * Fe.toZ (s.readP a).Z))

/-- R168: x·Z = X and y·Z = Y; (0, 0) were Z 0. -/
def Obligations.PointToAffineResult : Prop :=
  ∀ (d e : FReg) (a : PReg) (s : State), d ≠ e →
    decode (assemble 0x26 d a 0 e 0) = .ok (.paff d e a) ∧
    ∃ t, exec (.paff d e a) s = .next t ∧ Ended .ok t ∧ Unchanged { f := fun r => r = d ∨ r = e } s t ∧
      ((s.readP a).Z.val ≠ 0 →
        Fe.toZ (t.readF d) * Fe.toZ (s.readP a).Z = Fe.toZ (s.readP a).X ∧
        Fe.toZ (t.readF e) * Fe.toZ (s.readP a).Z = Fe.toZ (s.readP a).Y) ∧
      ((s.readP a).Z.val = 0 → (t.readF d).val = 0 ∧ (t.readF e).val = 0)

/-- R169: VALID says whether (x, y) is on the curve; the point is then (x, y, x·y, 1), else Pd keeps its value; x = y is always
rejected. -/
def Obligations.PointFromAffineResult : Prop :=
  ∀ (d : PReg) (a b : FReg) (s : State),
    decode (assemble 0x27 d a b 0 0) = .ok (.pfaf d a b) ∧
    ∃ t, exec (.pfaf d a b) s = .next t ∧ Ended .ok t ∧ Unchanged { p := fun r => r = d, valid := true } s t ∧
      (t.valid = true ↔ CurveEq (Fe.toZ (s.readF a)) (Fe.toZ (s.readF b))) ∧
      (t.valid = true → (t.readP d).X = s.readF a ∧ (t.readP d).Y = s.readF b ∧
        Fe.toZ (t.readP d).T = Fe.toZ (s.readF a) * Fe.toZ (s.readF b) ∧ (t.readP d).Z.val = 1) ∧
      (t.valid = false → t.readP d = s.readP d) ∧
      (s.readF a = s.readF b → t.valid = false)

/-- R170: the slot decodes exactly when its low 255 bits are a canonical y and some x of the parity its top bit asks for lies on
the curve with y; the point is then that (x, y, x·y, 1), else Pd keeps its value. -/
def Obligations.PointDecodeResult : Prop :=
  ∀ (d : PReg) (sl : Slot) (s : State),
    decode (assemble 0x28 d 0 0 0 sl) = .ok (.pdec d sl) ∧
    ∃ t, exec (.pdec d sl) s = .next t ∧ Ended .ok t ∧ Unchanged { p := fun r => r = d, valid := true } s t ∧
      ∀ v : Nat, v = ∑ i ∈ Finset.range 32, (Memory.read s.mem (slotOffset sl + i)).toNat * 256 ^ i →
        (t.valid = true ↔
          v % 2 ^ 255 < primeP ∧ ∃ x : Fe, x.val % 2 = v / 2 ^ 255 ∧ CurveEq (Fe.toZ x) ((v % 2 ^ 255 : Nat) : ZMod primeP)) ∧
        (t.valid = true →
          (t.readP d).X.val % 2 = v / 2 ^ 255 ∧ (t.readP d).Y.val = v % 2 ^ 255 ∧
          CurveEq (Fe.toZ (t.readP d).X) (Fe.toZ (t.readP d).Y) ∧
          Fe.toZ (t.readP d).T = Fe.toZ (t.readP d).X * Fe.toZ (t.readP d).Y ∧ (t.readP d).Z.val = 1) ∧
        (t.valid = false → t.readP d = s.readP d)

/-- R171: the slot's integer is y with the parity of x in bit 255, (x, y) being the affine point; no other byte changes; what PENC
of a valid point stores, PDEC reads back as that affine point. -/
def Obligations.PointEncodeResult : Prop :=
  ∀ (a : PReg) (sl : Slot) (s : State), Memory.wf s.mem →
    decode (assemble 0x29 0 a 0 0 sl) = .ok (.penc a sl) ∧
    ∃ t, exec (.penc a sl) s = .next t ∧ Ended .ok t ∧ Unchanged { bytes := within (slotOffset sl) 32 } s t ∧
      (ValidPoint (s.readP a) → ∃ Q, pdec (t.readSlot sl) = some Q ∧ SameAffine Q (s.readP a)) ∧
      ∀ x y : Fe, (s.readP a).Z.val ≠ 0 → Fe.toZ x * Fe.toZ (s.readP a).Z = Fe.toZ (s.readP a).X →
        Fe.toZ y * Fe.toZ (s.readP a).Z = Fe.toZ (s.readP a).Y →
        ∑ i ∈ Finset.range 32, (Memory.read t.mem (slotOffset sl + i)).toNat * 256 ^ i = y.val + 2 ^ 255 * (x.val % 2)

/-- The ladder of R172, as a fold over the scalar's bits from the most significant: 256 bits of K or all 512. -/
def Obligations.ScalarMultiplicationRunsTheLadder : Prop :=
  ∀ (d a : PReg) (w : Width) (s : State),
    decode (assemble 0x2A d a 0 0 (if w = .wide then 1 else 0)) = .ok (.smul d a w) ∧
    ∃ t, exec (.smul d a w) s = .next t ∧ Ended .ok t ∧ Unchanged { p := fun r => r = d } s t ∧
      t.readP d =
        ((List.range (if w = .wide then 512 else 256)).reverse.foldl
          (fun (R : Point × Point) i =>
            if s.k.getLsbD i then (padd R.1 R.2, pdbl R.2) else (pdbl R.1, padd R.1 R.2))
          (Point.neutral, s.readP a)).1

/-- Corner cases of R172 as affine points: scalar 0 gives the neutral, scalar 1 the point itself, and the neutral gives the
neutral for every scalar. -/
def Obligations.ScalarMultiplicationCorners : Prop :=
  ∀ (d a : PReg) (w : Width) (s t : State) (x y : ZMod primeP), Represents (s.readP a) x y →
    exec (.smul d a w) s = .next t →
    (s.kSlice w = 0 → Represents (t.readP d) 0 1) ∧
    (s.kSlice w = 1 → Represents (t.readP d) x y) ∧
    (x = 0 → y = 1 → Represents (t.readP d) 0 1)

/-- The addition law (R165): the denominators are never 0, and the affine points of `padd`, `pdbl` and `pneg` are those of the
law, on the curve again. -/
def Obligations.AdditionLawIsComplete : Prop :=
  ∀ (P Q : Point) (x1 y1 x2 y2 : ZMod primeP), Represents P x1 y1 → Represents Q x2 y2 →
    1 + Fe.toZ curveD * x1 * x2 * y1 * y2 ≠ 0 ∧ 1 - Fe.toZ curveD * x1 * x2 * y1 * y2 ≠ 0 ∧
    (∃ x3 y3, Represents (padd P Q) x3 y3 ∧
      x3 * (1 + Fe.toZ curveD * x1 * x2 * y1 * y2) = x1 * y2 + x2 * y1 ∧
      y3 * (1 - Fe.toZ curveD * x1 * x2 * y1 * y2) = y1 * y2 + x1 * x2) ∧
    (∃ x3 y3, Represents (pdbl P) x3 y3 ∧
      x3 * (1 + Fe.toZ curveD * x1 * x1 * y1 * y1) = x1 * y1 + x1 * y1 ∧
      y3 * (1 - Fe.toZ curveD * x1 * x1 * y1 * y1) = y1 * y1 + x1 * x1) ∧
    Represents (pneg P) (-x1) y1

/-- The laws of R173 that speak of two points at most, and the round trip of encoding. -/
def Obligations.PointLawsOfTheSource : Prop :=
  ∀ P : Point, ValidPoint P →
    SameAffine (padd P Point.neutral) P ∧
    SameAffine (padd P (pneg P)) Point.neutral ∧
    SameAffine (pdbl P) (padd P P) ∧
    ∃ Q, pdec (penc P) = some Q ∧ SameAffine Q P ∧ penc Q = penc P

/-! ### Transfers (42_transfer.md) -/

/-- R200. -/
def Obligations.FieldLoadReducesTheSlot : Prop :=
  ∀ (d : FReg) (sl : Slot) (s : State),
    decode (assemble 0x1C d 0 0 0 sl) = .ok (.fld d sl) ∧
    ∃ t, exec (.fld d sl) s = .next t ∧ Ended .ok t ∧ Unchanged { f := fun r => r = d } s t ∧
      (t.readF d).val =
        (∑ i ∈ Finset.range 32, (Memory.read s.mem (slotOffset sl + i)).toNat * 256 ^ i) % primeP

/-- R201: the canonical bytes, bit 7 of byte 31 being 0; a load of the same slot then gives the register back. -/
def Obligations.FieldStoreWritesTheSlot : Prop :=
  ∀ (a : FReg) (sl : Slot) (s : State), Memory.wf s.mem →
    decode (assemble 0x1D 0 a 0 0 sl) = .ok (.fst a sl) ∧
    ∃ t, exec (.fst a sl) s = .next t ∧ Ended .ok t ∧ Unchanged { bytes := within (slotOffset sl) 32 } s t ∧
      (∀ i, i < 32 → Memory.read t.mem (slotOffset sl + i) = BitVec.ofNat 8 ((s.readF a).val / 256 ^ i)) ∧
      (Memory.read t.mem (slotOffset sl + 31)).getLsbD 7 = false ∧
      (∀ d u, exec (.fld d sl) t = .next u → u.readF d = s.readF a)

/-- R202: the narrow form zero-extends 32 bytes, the wide form reads 64; nothing is reduced. -/
def Obligations.ScalarLoadReadsTheSlots : Prop :=
  ∀ (sl : Slot) (w : Width) (s : State), (w = .wide → sl.val ≤ 2) →
    decode (assemble 0x30 0 0 0 0 (sl + (if w = .wide then 16 else 0))) = .ok (.kld sl w) ∧
    ∃ t, exec (.kld sl w) s = .next t ∧ Ended .ok t ∧ Unchanged { k := true } s t ∧
      t.k.toNat = ∑ i ∈ Finset.range (if w = .wide then 64 else 32),
        (Memory.read s.mem (slotOffset sl + i)).toNat * 256 ^ i

/-- R203: the narrow form drops K[511:256]. -/
def Obligations.ScalarStoreWritesTheSlots : Prop :=
  ∀ (sl : Slot) (w : Width) (s : State), Memory.wf s.mem → (w = .wide → sl.val ≤ 2) →
    decode (assemble 0x31 0 0 0 0 (sl + (if w = .wide then 16 else 0))) = .ok (.kst sl w) ∧
    ∃ t, exec (.kst sl w) s = .next t ∧ Ended .ok t ∧
      Unchanged { bytes := within (slotOffset sl) (if w = .wide then 64 else 32) } s t ∧
      ∀ i, i < (if w = .wide then 64 else 32) →
        Memory.read t.mem (slotOffset sl + i) = s.k.extractLsb' (8 * i) 8

/-- R204 and R205: XLD and XST move 64 bytes, byte for byte. -/
def Obligations.KeyTransfersMoveEveryByte : Prop :=
  ∀ (sl : Slot) (s : State), sl.val ≤ 2 → Memory.wf s.mem →
    decode (assemble 0x32 0 0 0 0 sl) = .ok (.xld sl) ∧
    decode (assemble 0x33 0 0 0 0 sl) = .ok (.xst sl) ∧
    (∃ t, exec (.xld sl) s = .next t ∧ Ended .ok t ∧ Unchanged { xsk := true } s t ∧
      ∀ i : Fin 64, t.xsk[i] = Memory.read s.mem (slotOffset sl + i)) ∧
    (∃ t, exec (.xst sl) s = .next t ∧ Ended .ok t ∧ Unchanged { bytes := within (slotOffset sl) 64 } s t ∧
      ∀ i : Fin 64, Memory.read t.mem (slotOffset sl + i) = s.xsk[i])

/-! ### Sequencer (43_sequencer.md) -/

/-- R223 and R226: one hash request, of the seed; XSK is the clamped scalar and the prefix; slot 2 is the public key; the scalar
lies in [2^254, 2^255) and is divisible by 8. -/
def Obligations.DeriveWritesTheKeys : Prop :=
  ∀ s : State, Memory.wf s.mem →
    decode (assemble 0x40 0 0 0 0 0) = .ok .derive ∧
    ∃ t, exec .derive s = .next t ∧ Ended .ok t ∧ Scrubbed t ∧
      Unchanged { scrubTouches with bytes := within (slotOffset 2) 32, xsk := true, hashSent := true } s t ∧
      t.hashSent = s.hashSent ++ [s.readSlot 3] ∧
      (∀ i : Fin 64, t.xsk[i] =
        if i.val = 0 then (Config.sha512 (s.readSlot 3))[0] &&& 0xF8
        else if i.val = 31 then ((Config.sha512 (s.readSlot 3))[31] &&& 0x7F) ||| 0x40
        else (Config.sha512 (s.readSlot 3))[i]) ∧
      t.readSlot 2 = penc (smul basePoint (leInt (t.xsk.toList.take 32)) 256) ∧
      2 ^ 254 ≤ leInt (t.xsk.toList.take 32) ∧ leInt (t.xsk.toList.take 32) < 2 ^ 255 ∧
      leInt (t.xsk.toList.take 32) % 8 = 0

/-- R227: the signature from XSK and slot 2, on exact integers; two hash requests; S is below L. -/
def Obligations.SignpWritesTheSignature : Prop :=
  ∀ s : State, Memory.wf s.mem → s.msglen.toNat ≤ Config.msgMax →
    decode (assemble 0x42 0 0 0 0 0) = .ok .signp ∧
    ∃ t, exec .signp s = .next t ∧ Ended .ok t ∧ Scrubbed t ∧
      Unchanged { scrubTouches with bytes := within (slotOffset 0) 64, hashSent := true } s t ∧
      ∀ (nonceKey m Rb : List Byte) (a r k : Nat),
        nonceKey = s.xsk.toList.drop 32 → a = leInt (s.xsk.toList.take 32) →
        m = Memory.readBytes s.mem 0x1000 s.msglen.toNat →
        r = leInt (Config.sha512 (nonceKey ++ m)).toList % orderL →
        Rb = penc (smul basePoint r 256) →
        k = leInt (Config.sha512 (Rb ++ s.readSlot 2 ++ m)).toList % orderL →
        t.readSlot 0 = Rb ∧ leInt (t.readSlot 1) = (k * a + r) % orderL ∧
        t.hashSent = s.hashSent ++ [nonceKey ++ m, Rb ++ s.readSlot 2 ++ m]

/-- R228: SIGN equals DERIVE followed by SIGNP on all state, and leaves slot 3 and the message alone. -/
def Obligations.SignIsDeriveThenSignp : Prop :=
  ∀ s : State, Memory.wf s.mem → s.msglen.toNat ≤ Config.msgMax →
    decode (assemble 0x41 0 0 0 0 0) = .ok .sign ∧
    (∀ t, exec .derive s = .next t → exec .sign s = exec .signp t) ∧
    ∃ u, exec .sign s = .next u ∧ Ended .ok u ∧ Scrubbed u ∧
      Unchanged { scrubTouches with bytes := within (slotOffset 0) 96, xsk := true, hashSent := true } s u

/-- R229: the outcome of VERIFY, check by check in the source's order, with the unreduced 512-bit k; its hash requests; IO, XSK,
MSG and MSGLEN do not change. -/
def Obligations.VerifyReportsTheFirstFailure : Prop :=
  ∀ s : State, s.msglen.toNat ≤ Config.msgMax →
    decode (assemble 0x43 0 0 0 0 0) = .ok .verify ∧
    ∃ t, exec .verify s = .next t ∧ Ended t.err t ∧ Scrubbed t ∧ Unchanged { scrubTouches with hashSent := true } s t ∧
      (pdec (s.readSlot 0) = none → t.err = .badSignature ∧ t.hashSent = s.hashSent) ∧
      ∀ R, pdec (s.readSlot 0) = some R →
        (Config.strictS = true ∧ orderL ≤ leInt (s.readSlot 1) → t.err = .badSignature ∧ t.hashSent = s.hashSent) ∧
        (¬(Config.strictS = true ∧ orderL ≤ leInt (s.readSlot 1)) →
          (pdec (s.readSlot 2) = none → t.err = .badPublicKey ∧ t.hashSent = s.hashSent) ∧
          ∀ A, pdec (s.readSlot 2) = some A →
            ∀ (m : List Byte) (k : Nat), m = Memory.readBytes s.mem 0x1000 s.msglen.toNat →
              k = leInt (Config.sha512 (s.readSlot 0 ++ s.readSlot 2 ++ m)).toList →
              t.hashSent = s.hashSent ++ [s.readSlot 0 ++ s.readSlot 2 ++ m] ∧
              t.err = if peq (smul basePoint (leInt (s.readSlot 1)) 256) (padd R (smul A k 512)) then .ok
                else .signatureNotMatchMessage)

/-- R230: after CLR the state is the reset state but for ILL, DONE and the model's own fields. -/
def Obligations.ClearRestoresTheDataState : Prop :=
  decode (assemble 0x44 0 0 0 0 0) = .ok .clr ∧
  ∀ s : State, exec .clr s = .next { State.reset with
    ill := s.ill, done := true, inputs := s.inputs, replies := s.replies, hashSent := s.hashSent, busyLeft := s.busyLeft,
    latches := s.latches }

/-- R224: a length above MSG_MAX ends SIGN, SIGNP and VERIFY with BadLength and nothing else changed, no hash request; otherwise
the message is the first MSGLEN bytes of MSG; DERIVE and CLR do not read MSGLEN. -/
def Obligations.LengthCheckStopsBeforeAnyEffect : Prop :=
  (∀ i ∈ [Instr.sign, Instr.signp, Instr.verify], ∀ s : State, Config.msgMax < s.msglen.toNat →
    ∃ t, exec i s = .next t ∧ Ended .badLength t ∧ Unchanged {} s t) ∧
  (∀ s : State, s.message.length = s.msglen.toNat ∧
    ∀ j, j < s.msglen.toNat → s.message.getD j 0 = Memory.read s.mem (0x1000 + j)) ∧
  (∀ (s t : State) (n : Word), exec .derive s = .next t → exec .derive { s with msglen := n } = .next { t with msglen := n }) ∧
  (∀ (s : State) (n : Word), exec .clr { s with msglen := n } = exec .clr s)

/-- The outputs of SIGN, SIGNP and VERIFY are functions of their inputs (R220): two states that agree on the inputs, and on nothing
else, give the same outputs. -/
def Obligations.SequencerOutputsDependOnItsInputsOnly : Prop :=
  ∀ s s' t t' : State, Memory.wf s.mem → Memory.wf s'.mem → s.msglen = s'.msglen → s.msglen.toNat ≤ Config.msgMax →
    s.message = s'.message →
    (s.readSlot 3 = s'.readSlot 3 → exec .sign s = .next t → exec .sign s' = .next t' →
      (∀ sl : Slot, t.readSlot sl = t'.readSlot sl) ∧ t.xsk = t'.xsk ∧ t.err = t'.err) ∧
    (s.xsk = s'.xsk → s.readSlot 2 = s'.readSlot 2 → exec .signp s = .next t → exec .signp s' = .next t' →
      t.readSlot 0 = t'.readSlot 0 ∧ t.readSlot 1 = t'.readSlot 1 ∧ t.err = t'.err) ∧
    (s.readSlot 0 = s'.readSlot 0 → s.readSlot 1 = s'.readSlot 1 → s.readSlot 2 = s'.readSlot 2 →
      exec .verify s = .next t → exec .verify s' = .next t' → t.err = t'.err)

/-! ### Rules about the whole machine -/

/-- Who writes what, over all commands (the "Written by" lists of 10_state.md R21, R22, R24 to R29): a command outside a register's
list leaves the register alone. -/
def Obligations.OnlyNamedCommandsWriteARegister : Prop :=
  ∀ (i : Instr) (s t : State), i.wf = true → Memory.wf s.mem → exec i s = .next t →
    (i.opcode ∉ [.FADD, .FSUB, .FNEG, .FMUL, .FSQR, .FINV, .FEXP, .FSQRT, .FMOV, .FLDC, .FLD, .PAFF, .DERIVE, .SIGN, .SIGNP,
      .VERIFY, .CLR] → t.f = s.f) ∧
    (i.opcode ∉ [.PADD, .PDBL, .PNEG, .PMOV, .PLDC, .PFAF, .PDEC, .SMUL, .DERIVE, .SIGN, .SIGNP, .VERIFY, .CLR] → t.p = s.p) ∧
    (i.opcode ∉ [.KLD, .DERIVE, .SIGN, .SIGNP, .VERIFY, .CLR] → t.k = s.k) ∧
    (i.opcode ∉ [.DERIVE, .SIGN, .XLD, .CLR] → t.xsk = s.xsk) ∧
    (i.opcode ≠ .CLR → t.msglen = s.msglen ∧ ∀ a, 0x1000 ≤ a → Memory.read t.mem a = Memory.read s.mem a) ∧
    (i.opcode ∉ [.FST, .PENC, .KST, .XST, .DERIVE, .SIGN, .SIGNP, .CLR] → t.mem = s.mem) ∧
    (i.opcode ∉ [.FSQRT, .PFAF, .PDEC, .DERIVE, .SIGN, .SIGNP, .VERIFY, .CLR] → t.valid = s.valid) ∧
    (i.opcode ∉ [.FEQ, .PEQ, .DERIVE, .SIGN, .SIGNP, .VERIFY, .CLR] → t.eq = s.eq) ∧
    (i.opcode ∉ [.FPAR, .DERIVE, .SIGN, .SIGNP, .VERIFY, .CLR] → t.even = s.even) ∧
    t.ill = s.ill ∧ t.inputs = s.inputs ∧ t.replies = s.replies ∧ t.latches = s.latches

/-- The invariant holds at reset, where every point register holds a valid point. -/
def Obligations.ResetMeetsTheInvariants : Prop :=
  Inv State.reset ∧ PointsValid State.reset

/-- Every step keeps the invariant: memory in canonical form, only bytes of IO and MSG listed, DONE = 0 while BUSY. -/
def Obligations.EveryStepKeepsTheInvariant : Prop :=
  ∀ s t : State, Inv s → step s = .next t → Inv t

/-- Every step keeps every point register a valid point of the curve (10_state.md R22). -/
def Obligations.EveryStepKeepsPointsValid : Prop :=
  ∀ s t : State, PointsValid s → step s = .next t → PointsValid t

/-- Only the affine point of a point register is observable (10_state.md R23): states that differ only in which tuples stand for
the points step to states that differ only in that. That a command latched in both gets one busy length is the model's choice (log
entry 4). -/
def Obligations.TuplesAreNotObservable : Prop :=
  ∀ s s' t t' : State, SameUpToTuples s s' → step s = .next t → step s' = .next t' → SameUpToTuples t t'

/-! ### Constant-time shape (70_reset_and_hazards.md section 4; the traces are the model's, log entry 8) -/

/-- The traced computation of every command computes what the command computes. -/
def Obligations.TracedRunIsTheRun : Prop :=
  ∀ (i : Instr) (s : State), exec i s = .next (tracedState i s)

/-- The traces of the ladder, the square root, the comparators, FEXP, and one addition and one doubling do not depend on any
operand (R294, R295, R296). -/
def Obligations.DatapathTracesAreFixed : Prop :=
  (∀ (d a : PReg) (w : Width) (s : State), operationTrace (.smul d a w) s =
    (List.replicate (if w = .wide then 512 else 256) [DatapathOp.padd, .pdbl]).flatten) ∧
  (∀ (d e a : FReg) (s : State), d ≠ e →
    operationTrace (.fsqrt d e a) s = [.fexp, .fmul, .fsqr, .feq, .fsqr, .feq, .fneg]) ∧
  (∀ (d a : FReg) (s : State),
    operationTrace (.fexp d a) s = (List.replicate 512 [DatapathOp.fsqr, .fmul]).flatten) ∧
  (∀ (a b : FReg) (s : State), operationTrace (.feq a b) s = [.feq]) ∧
  (∀ (a b : PReg) (s : State),
    operationTrace (.peq a b) s = [.finv, .fmul, .fmul, .finv, .fmul, .fmul, .feq, .feq]) ∧
  (∀ P Q : Point, tPaddLine P Q [] = (padd P Q,
    [.fsub, .fsub, .fmul, .fadd, .fadd, .fmul, .fmul, .fmul, .fmul, .fmul, .fsub, .fsub, .fadd, .fadd, .fmul, .fmul, .fmul,
      .fmul])) ∧
  (∀ P : Point, tPdblLine P [] = (pdbl P,
    [.fsqr, .fsqr, .fsqr, .fmul, .fadd, .fadd, .fsqr, .fsub, .fsub, .fadd, .fmul, .fmul, .fmul, .fmul]))

/-- The traces of DERIVE, SIGNP and SIGN depend on MSGLEN alone: not on the seed, XSK, the nonce, the challenge or the message
(R297). -/
def Obligations.SigningTracesDependOnTheLengthOnly : Prop :=
  ∀ s s' : State,
    operationTrace .derive s = operationTrace .derive s' ∧
    (s.msglen = s'.msglen → operationTrace .signp s = operationTrace .signp s' ∧
      operationTrace .sign s = operationTrace .sign s')
end

