-- ==== Sys2Proof/Laws/Prime.lean ====
section
/-!
SUPPORT. p = 2^255 - 19 is prime, by a chain of Lucas certificates the kernel evaluates. GF(p) is then a field, which the laws of
inversion, square roots and points need.
-/

namespace Sys2Proof.Laws

/- Theorems that wait for the kernel at once need a thread each; elaborated in order they do not. -/
set_option Elab.async false

/-- Modular square and multiply over bits i-1 down to 0 of the exponent. -/
def powModLoop (a n m : Nat) : Nat → Nat → Nat
  | 0, r => r
  | i + 1, r => powModLoop a n m i (if n.testBit i then r * r % m * a % m else r * r % m)

/-- The low i+1 bits of a number are its low i bits and bit i. -/
theorem mod_two_pow_succ (n i : Nat) : n % 2 ^ (i + 1) = n % 2 ^ i + 2 ^ i * (n.testBit i).toNat := by
  rw [pow_succ, Nat.mod_mul, Nat.testBit_eq_decide_div_mod_eq]
  rcases Nat.mod_two_eq_zero_or_one (n / 2 ^ i) with h | h <;> simp [h]

theorem pow_two_pow_succ {M : Type} [CommMonoid M] (r a : M) (n i : Nat) :
    r ^ 2 ^ (i + 1) * a ^ (n % 2 ^ (i + 1)) = (r * r * a ^ (n.testBit i).toNat) ^ 2 ^ i * a ^ (n % 2 ^ i) := by
  have h1 : r ^ 2 ^ (i + 1) = (r * r) ^ 2 ^ i := by rw [pow_succ' 2 i, pow_mul, pow_two]
  have h2 : a ^ (2 ^ i * (n.testBit i).toNat) = (a ^ (n.testBit i).toNat) ^ 2 ^ i := by rw [mul_comm, pow_mul]
  rw [mod_two_pow_succ, h1, pow_add, h2, mul_pow _ (a ^ (n.testBit i).toNat), mul_comm (a ^ (n % 2 ^ i)), ← mul_assoc]

theorem powModLoop_eq (a n m i r : Nat) :
    powModLoop a n m i r % m = r ^ 2 ^ i * a ^ (n % 2 ^ i) % m := by
  induction i generalizing r with
  | zero => simp [powModLoop, Nat.mod_one]
  | succ i ih =>
    rw [powModLoop, ih, pow_two_pow_succ]
    refine Nat.ModEq.mul_right _ (Nat.ModEq.pow _ ?_)
    cases n.testBit i with
    | false => simpa using Nat.mod_modEq (r * r) m
    | true => simpa using (Nat.mod_modEq _ m).trans ((Nat.mod_modEq (r * r) m).mul_right a)

/-- a^n mod m. -/
def powMod (a n m : Nat) : Nat := powModLoop a n m 255 1 % m

theorem powMod_eq {a n m : Nat} (h : n < 2 ^ 255) : powMod a n m = a ^ n % m := by
  rw [powMod, powModLoop_eq, Nat.mod_eq_of_lt h]
  simp

/-- Lucas's test, with the prime factors of n - 1 listed and every power evaluated. -/
theorem prime_of_certificate (n a : Nat) (fs : List Nat) (hn : 1 < n) (hb : n ≤ 2 ^ 255) (hprod : fs.prod = n - 1)
    (hfs : ∀ q ∈ fs, q.Prime) (h1 : powMod a (n - 1) n = 1) (hq : ∀ q ∈ fs, powMod a ((n - 1) / q) n ≠ 1) :
    n.Prime := by
  have key : ∀ k, k < 2 ^ 255 → ((a : ZMod n) ^ k = 1 ↔ powMod a k n = 1) := by
    intro k hk
    rw [powMod_eq hk]
    have : ((a : ZMod n) ^ k = 1) ↔ ((a ^ k : Nat) : ZMod n) = ((1 : Nat) : ZMod n) := by push_cast; rfl
    rw [this, ZMod.natCast_eq_natCast_iff, Nat.ModEq, Nat.mod_eq_of_lt hn]
  refine lucas_primality n (a : ZMod n) ((key _ (by omega)).2 h1) fun q hp hd => ?_
  rw [← hprod] at hd
  obtain ⟨f, hf, hqf⟩ := (hp.prime.dvd_prod_iff).1 hd
  have hqe : q = f := (Nat.prime_dvd_prime_iff_eq hp (hfs f hf)).1 hqf
  rw [Ne, key _ (lt_of_le_of_lt (Nat.div_le_self _ _) (by omega))]
  exact hqe ▸ hq f hf

theorem prime_2773320623 : Nat.Prime 2773320623 :=
  prime_of_certificate _ 5 [2, 2437, 569003] (by norm_num) (by norm_num) (by decide +kernel)
    (by intro q hq; simp only [List.mem_cons, List.not_mem_nil, or_false] at hq; rcases hq with rfl | rfl | rfl <;> norm_num)
    (by decide +kernel) (by decide +kernel)

theorem prime_72106336199 : Nat.Prime 72106336199 :=
  prime_of_certificate _ 7 [2, 13, 2773320623] (by norm_num) (by norm_num) (by decide +kernel)
    (by
      intro q hq
      simp only [List.mem_cons, List.not_mem_nil, or_false] at hq
      rcases hq with rfl | rfl | rfl
      · norm_num
      · norm_num
      · exact prime_2773320623)
    (by decide +kernel) (by decide +kernel)

theorem prime_1919519569386763 : Nat.Prime 1919519569386763 :=
  prime_of_certificate _ 2 [2, 3, 7, 19, 47, 47, 127, 8574133] (by norm_num) (by norm_num) (by decide +kernel)
    (by
      intro q hq
      simp only [List.mem_cons, List.not_mem_nil, or_false] at hq
      rcases hq with rfl | rfl | rfl | rfl | rfl | rfl | rfl | rfl <;> norm_num)
    (by decide +kernel) (by decide +kernel)

theorem prime_31757755568855353 : Nat.Prime 31757755568855353 :=
  prime_of_certificate _ 10 [2, 2, 2, 3, 31, 107, 223, 4153, 430751] (by norm_num) (by norm_num) (by decide +kernel)
    (by
      intro q hq
      simp only [List.mem_cons, List.not_mem_nil, or_false] at hq
      rcases hq with rfl | rfl | rfl | rfl | rfl | rfl | rfl | rfl | rfl <;> norm_num)
    (by decide +kernel) (by decide +kernel)

theorem prime_75445702479781427272750846543864801 : Nat.Prime 75445702479781427272750846543864801 :=
  prime_of_certificate _ 7 [2, 2, 2, 2, 2, 3, 3, 5, 5, 75707, 72106336199, 1919519569386763] (by norm_num) (by norm_num)
    (by decide +kernel)
    (by
      intro q hq
      simp only [List.mem_cons, List.not_mem_nil, or_false] at hq
      rcases hq with rfl | rfl | rfl | rfl | rfl | rfl | rfl | rfl | rfl | rfl | rfl | rfl
      case inr.inr.inr.inr.inr.inr.inr.inr.inr.inr.inl => exact prime_72106336199
      case inr.inr.inr.inr.inr.inr.inr.inr.inr.inr.inr => exact prime_1919519569386763
      all_goals norm_num)
    (by decide +kernel) (by decide +kernel)

/-- The large prime factor of p - 1. -/
theorem prime_factor_of_primeP_sub_one :
    Nat.Prime 74058212732561358302231226437062788676166966415465897661863160754340907 :=
  prime_of_certificate _ 2 [2, 3, 353, 57467, 132049, 1923133, 31757755568855353, 75445702479781427272750846543864801]
    (by norm_num) (by norm_num) (by decide +kernel)
    (by
      intro q hq
      simp only [List.mem_cons, List.not_mem_nil, or_false] at hq
      rcases hq with rfl | rfl | rfl | rfl | rfl | rfl | rfl | rfl
      case inr.inr.inr.inr.inr.inr.inl => exact prime_31757755568855353
      case inr.inr.inr.inr.inr.inr.inr => exact prime_75445702479781427272750846543864801
      all_goals norm_num)
    (by decide +kernel) (by decide +kernel)

/-- p = 2^255 - 19 is prime (95_test_vectors.md section 1 checked it with Miller-Rabin rounds only). -/
theorem primeP_prime : Nat.Prime primeP :=
  prime_of_certificate _ 2
    [2, 2, 3, 65147, 74058212732561358302231226437062788676166966415465897661863160754340907] (by decide) (by decide)
    (by decide +kernel)
    (by
      intro q hq
      simp only [List.mem_cons, List.not_mem_nil, or_false] at hq
      rcases hq with rfl | rfl | rfl | rfl | rfl
      case inr.inr.inr.inr => exact prime_factor_of_primeP_sub_one
      all_goals norm_num)
    (by decide +kernel) (by decide +kernel)

end Sys2Proof.Laws
end

