-- ==== Sys2Proof/Laws/Field.lean ====
section
/-!
SUPPORT. The field unit over ZMod p: one lemma per function, which the proofs cite instead of unfolding it (40_field.md R133), and
the coordinates of the point formulas.
-/

namespace Sys2Proof.Machine

/- Theorems that wait for the kernel at once need a thread each; elaborated in order they do not. -/
set_option Elab.async false

/-! ### The ring of residues -/

@[simp] theorem toZ_ofNat (n : Nat) : Fe.toZ (Fe.ofNat n) = (n : ZMod primeP) := by
  simp [Fe.toZ, Fe.ofNat]

theorem val_ofNat (n : Nat) : (Fe.ofNat n).val = n % primeP := rfl

theorem ofNat_val (x : Fe) : Fe.ofNat x.val = x := Fin.ext (Nat.mod_eq_of_lt x.isLt)

theorem toZ_injective {x y : Fe} (h : Fe.toZ x = Fe.toZ y) : x = y := by
  have := (ZMod.natCast_eq_natCast_iff _ _ _).1 h
  rw [Nat.ModEq, Nat.mod_eq_of_lt x.isLt, Nat.mod_eq_of_lt y.isLt] at this
  exact Fin.ext this

theorem toZ_inj {x y : Fe} : Fe.toZ x = Fe.toZ y ↔ x = y := ⟨toZ_injective, fun h => h ▸ rfl⟩

theorem toZ_eq_zero {x : Fe} : Fe.toZ x = 0 ↔ x.val = 0 := by
  have h0 : Fe.toZ (Fe.ofNat 0) = 0 := by simp
  rw [← h0, toZ_inj]
  constructor
  · rintro rfl; rfl
  · intro h; exact Fin.ext h

theorem toZ_val (x : Fe) : ((x.val : Nat) : ZMod primeP) = Fe.toZ x := rfl

theorem primeP_cast : ((primeP : Nat) : ZMod primeP) = 0 := ZMod.natCast_self primeP

/-! ### Field functions -/

@[simp] theorem toZ_fadd (x y : Fe) : Fe.toZ (fadd x y) = Fe.toZ x + Fe.toZ y := by
  simp [fadd, Fe.toZ, Fe.ofNat]

@[simp] theorem toZ_fsub (x y : Fe) : Fe.toZ (fsub x y) = Fe.toZ x - Fe.toZ y := by
  have h : y.val ≤ x.val + primeP := le_trans y.isLt.le (Nat.le_add_left _ _)
  simp only [fsub, toZ_ofNat]
  rw [Nat.cast_sub h]
  push_cast
  simp [Fe.toZ]

@[simp] theorem toZ_fneg (x : Fe) : Fe.toZ (fneg x) = -Fe.toZ x := by
  simp only [fneg, toZ_ofNat]
  rw [Nat.cast_sub x.isLt.le]
  simp [Fe.toZ]

@[simp] theorem toZ_fmul (x y : Fe) : Fe.toZ (fmul x y) = Fe.toZ x * Fe.toZ y := by
  simp [fmul, Fe.toZ, Fe.ofNat]

@[simp] theorem toZ_fsqr (x : Fe) : Fe.toZ (fsqr x) = Fe.toZ x ^ 2 := by
  simp [fsqr, pow_two]

theorem toZ_fexpLoop (x : Fe) (n i : Nat) (r : Fe) :
    Fe.toZ (fexpLoop x n i r) = Fe.toZ r ^ 2 ^ i * Fe.toZ x ^ (n % 2 ^ i) := by
  induction i generalizing r with
  | zero => simp [fexpLoop, Nat.mod_one]
  | succ i ih =>
    rw [fexpLoop, ih, Laws.pow_two_pow_succ]
    cases n.testBit i <;> simp [pow_two]

/-- FEXP is the power (R127). -/
theorem toZ_fexp (x : Fe) {n : Nat} (h : n < 2 ^ 512) : Fe.toZ (fexp x n) = Fe.toZ x ^ n := by
  rw [fexp, toZ_fexpLoop, Nat.mod_eq_of_lt h]
  simp

theorem toZ_finv (x : Fe) : Fe.toZ (finv x) = Fe.toZ x ^ (primeP - 2) := by
  have h : primeP - 2 < 2 ^ 512 :=
    lt_of_lt_of_le (by decide : primeP - 2 < 2 ^ 255) (Nat.pow_le_pow_right (by decide) (by decide))
  rw [finv, toZ_fexp x h]

theorem feq_iff {x y : Fe} : feq x y = true ↔ Fe.toZ x = Fe.toZ y := by
  simp [feq, toZ_inj]

/-! ### Constants (10_state.md R33) -/

theorem toZ_curve2D : Fe.toZ curve2D = 2 * Fe.toZ curveD := by
  have h : curve2D = fmul (Fe.ofNat 2) curveD := by decide +kernel
  rw [h, toZ_fmul, toZ_ofNat]
  push_cast
  ring

/-- d = -121665/121666. -/
theorem toZ_curveD : Fe.toZ curveD * 121666 = -121665 := by
  have h : fmul curveD (Fe.ofNat 121666) = fneg (Fe.ofNat 121665) := by decide +kernel
  have := congrArg Fe.toZ h
  simpa using this

/-- SQRTM1 is a square root of -1. -/
theorem toZ_sqrtm1 : Fe.toZ sqrtm1 ^ 2 = -1 := by
  have h : fsqr sqrtm1 = fneg (Fe.ofNat 1) := by decide +kernel
  have := congrArg Fe.toZ h
  simpa using this

/-! ### Point formulas, coordinate by coordinate -/

theorem toZ_padd_X (P Q : Point) :
    Fe.toZ (padd P Q).X =
      ((Fe.toZ P.Y + Fe.toZ P.X) * (Fe.toZ Q.Y + Fe.toZ Q.X) - (Fe.toZ P.Y - Fe.toZ P.X) * (Fe.toZ Q.Y - Fe.toZ Q.X)) *
        (Fe.toZ P.Z * 2 * Fe.toZ Q.Z - Fe.toZ P.T * (2 * Fe.toZ curveD) * Fe.toZ Q.T) := by
  simp [padd, toZ_curve2D]

theorem toZ_padd_Y (P Q : Point) :
    Fe.toZ (padd P Q).Y =
      (Fe.toZ P.Z * 2 * Fe.toZ Q.Z + Fe.toZ P.T * (2 * Fe.toZ curveD) * Fe.toZ Q.T) *
        ((Fe.toZ P.Y + Fe.toZ P.X) * (Fe.toZ Q.Y + Fe.toZ Q.X) +
          (Fe.toZ P.Y - Fe.toZ P.X) * (Fe.toZ Q.Y - Fe.toZ Q.X)) := by
  simp [padd, toZ_curve2D]

theorem toZ_padd_T (P Q : Point) :
    Fe.toZ (padd P Q).T =
      ((Fe.toZ P.Y + Fe.toZ P.X) * (Fe.toZ Q.Y + Fe.toZ Q.X) - (Fe.toZ P.Y - Fe.toZ P.X) * (Fe.toZ Q.Y - Fe.toZ Q.X)) *
        ((Fe.toZ P.Y + Fe.toZ P.X) * (Fe.toZ Q.Y + Fe.toZ Q.X) +
          (Fe.toZ P.Y - Fe.toZ P.X) * (Fe.toZ Q.Y - Fe.toZ Q.X)) := by
  simp [padd]

theorem toZ_padd_Z (P Q : Point) :
    Fe.toZ (padd P Q).Z =
      (Fe.toZ P.Z * 2 * Fe.toZ Q.Z - Fe.toZ P.T * (2 * Fe.toZ curveD) * Fe.toZ Q.T) *
        (Fe.toZ P.Z * 2 * Fe.toZ Q.Z + Fe.toZ P.T * (2 * Fe.toZ curveD) * Fe.toZ Q.T) := by
  simp [padd, toZ_curve2D]

theorem toZ_pdbl_X (P : Point) :
    Fe.toZ (pdbl P).X =
      (Fe.toZ P.X ^ 2 + Fe.toZ P.Y ^ 2 - (Fe.toZ P.X + Fe.toZ P.Y) ^ 2) *
        (2 * Fe.toZ P.Z ^ 2 + (Fe.toZ P.X ^ 2 - Fe.toZ P.Y ^ 2)) := by
  simp [pdbl]

theorem toZ_pdbl_Y (P : Point) :
    Fe.toZ (pdbl P).Y =
      (Fe.toZ P.X ^ 2 - Fe.toZ P.Y ^ 2) * (Fe.toZ P.X ^ 2 + Fe.toZ P.Y ^ 2) := by
  simp [pdbl]

theorem toZ_pdbl_T (P : Point) :
    Fe.toZ (pdbl P).T =
      (Fe.toZ P.X ^ 2 + Fe.toZ P.Y ^ 2 - (Fe.toZ P.X + Fe.toZ P.Y) ^ 2) * (Fe.toZ P.X ^ 2 + Fe.toZ P.Y ^ 2) := by
  simp [pdbl]

theorem toZ_pdbl_Z (P : Point) :
    Fe.toZ (pdbl P).Z =
      (2 * Fe.toZ P.Z ^ 2 + (Fe.toZ P.X ^ 2 - Fe.toZ P.Y ^ 2)) * (Fe.toZ P.X ^ 2 - Fe.toZ P.Y ^ 2) := by
  simp [pdbl]

end Sys2Proof.Machine
end

