-- ==== Sys2Proof/Laws/Memory.lean ====
section
/-!
SUPPORT. The laws of memory: read after write, byte strings, the canonical form and what it gives (equal reads, equal memories),
and the laws of little-endian integers.
-/

namespace Sys2Proof.Machine

/-! ### One byte -/

@[simp] theorem Memory.read_nil (a : Nat) : Memory.read [] a = Memory.unlisted := rfl

/-- A read after a write gives the byte written at its offset and what was there anywhere else. -/
theorem Memory.read_write (m : Memory) (a x : Nat) (b : Byte) (h : Memory.wf m) :
    Memory.read (Memory.write m a b) x = if x = a then b else Memory.read m x := by
  induction m with
  | nil =>
    simp only [Memory.write]
    split <;> simp [Memory.read, *]
  | cons c m ih =>
    obtain ⟨k, v⟩ := c
    have hm : Memory.wf m := ⟨(List.pairwise_cons.1 h.1).2, fun c hc => h.2 c (List.mem_cons_of_mem _ hc)⟩
    have habs : ∀ y, y ≤ k → Memory.read m y = Memory.unlisted := by
      intro y hy
      have hlt := (List.pairwise_cons.1 h.1).1
      clear ih h hm
      induction m with
      | nil => rfl
      | cons c m ihm =>
        obtain ⟨k', v'⟩ := c
        have h1 : k < k' := hlt (k', v') (by simp)
        have h2 : y ≠ k' := by omega
        simp only [Memory.read, h2, if_false]
        exact ihm fun c hc => hlt c (by simp [hc])
    simp only [Memory.write]
    split
    · rename_i hak
      split
      · rename_i hb
        by_cases hx : x = a
        · subst hx
          have : x ≠ k := by omega
          simp [Memory.read, this, habs x (by omega), hb]
        · simp [hx]
      · simp only [Memory.read]
    · split
      · rename_i hak
        subst hak
        split
        · rename_i hb
          by_cases hx : x = a
          · subst hx; simp [habs x le_rfl, hb]
          · simp [hx, Memory.read]
        · simp only [Memory.read]
          by_cases hx : x = a <;> simp [hx]
      · rename_i h1 h2
        simp only [Memory.read, ih hm]
        by_cases hx : x = k
        · subst hx
          have : x ≠ a := by omega
          simp [this]
        · simp [hx]

theorem Memory.mem_write {m : Memory} {a : Nat} {b : Byte} {c : Host.Cell} (h : c ∈ Memory.write m a b) :
    c ∈ m ∨ (c = (a, b) ∧ b ≠ Memory.unlisted) := by
  induction m with
  | nil =>
    simp only [Memory.write] at h
    split at h <;> simp_all
  | cons d m ih =>
    obtain ⟨k, v⟩ := d
    simp only [Memory.write] at h
    split at h
    · split at h
      · exact .inl h
      · rcases List.mem_cons.1 h with h | h
        · exact .inr ⟨h, ‹_›⟩
        · exact .inl h
    · split at h
      · split at h
        · exact .inl (List.mem_cons_of_mem _ h)
        · rcases List.mem_cons.1 h with h | h
          · exact .inr ⟨h, ‹_›⟩
          · exact .inl (List.mem_cons_of_mem _ h)
      · rcases List.mem_cons.1 h with h | h
        · exact .inl (h ▸ List.mem_cons_self)
        · rcases ih h with h | h
          · exact .inl (List.mem_cons_of_mem _ h)
          · exact .inr h

theorem Memory.wf_nil : Memory.wf [] := ⟨List.Pairwise.nil, fun _ hc => absurd hc (List.not_mem_nil)⟩

/-- A write keeps the canonical form. -/
theorem Memory.wf_write {m : Memory} (a : Nat) (b : Byte) (h : Memory.wf m) : Memory.wf (Memory.write m a b) := by
  constructor
  · induction m with
    | nil =>
      simp only [Memory.write]
      split
      · exact List.Pairwise.nil
      · exact List.pairwise_singleton _ _
    | cons c m ih =>
      obtain ⟨k, v⟩ := c
      have hp := List.pairwise_cons.1 h.1
      have hm : Memory.wf m := ⟨hp.2, fun c hc => h.2 c (List.mem_cons_of_mem _ hc)⟩
      simp only [Memory.write]
      split
      · rename_i hak
        split
        · exact h.1
        · refine List.pairwise_cons.2 ⟨fun c hc => ?_, h.1⟩
          rcases List.mem_cons.1 hc with rfl | hc
          · exact hak
          · exact lt_trans hak (hp.1 c hc)
      · split
        · rename_i hak
          split
          · exact hp.2
          · exact List.pairwise_cons.2 ⟨fun c hc => hak ▸ hp.1 c hc, hp.2⟩
        · refine List.pairwise_cons.2 ⟨fun c hc => ?_, ih hm⟩
          rcases Memory.mem_write hc with hc | ⟨rfl, -⟩
          · exact hp.1 c hc
          · show k < a
            omega
  · intro c hc
    rcases Memory.mem_write hc with hc | ⟨rfl, hb⟩
    · exact h.2 c hc
    · exact hb

/-! ### Byte strings -/

theorem Memory.wf_writeBytes {m : Memory} (a : Nat) (bs : List Byte) (h : Memory.wf m) :
    Memory.wf (Memory.writeBytes m a bs) := by
  induction bs generalizing m a with
  | nil => exact h
  | cons b bs ih => exact ih (a + 1) (Memory.wf_write a b h)

theorem Memory.mem_writeBytes {m : Memory} {a : Nat} {bs : List Byte} {c : Host.Cell}
    (h : c ∈ Memory.writeBytes m a bs) : c ∈ m ∨ (a ≤ c.1 ∧ c.1 < a + bs.length) := by
  induction bs generalizing m a with
  | nil => exact .inl h
  | cons b bs ih =>
    rcases ih h with h | h
    · rcases Memory.mem_write h with h | ⟨rfl, -⟩
      · exact .inl h
      · exact .inr ⟨le_rfl, by simp⟩
    · exact .inr ⟨by omega, by simp only [List.length_cons]; omega⟩

/-- A read after a byte string was stored: the string's byte inside it, what was there outside it. -/
theorem Memory.read_writeBytes (m : Memory) (a x : Nat) (bs : List Byte) (h : Memory.wf m) :
    Memory.read (Memory.writeBytes m a bs) x =
      if a ≤ x ∧ x < a + bs.length then bs.getD (x - a) 0 else Memory.read m x := by
  induction bs generalizing m a with
  | nil =>
    have : ¬(a ≤ x ∧ x < a + ([] : List Byte).length) := by simp
    rw [if_neg this]
    rfl
  | cons b bs ih =>
    simp only [Memory.writeBytes, ih (Memory.write m a b) (a + 1) (Memory.wf_write a b h), Memory.read_write m a x b h,
      List.length_cons]
    by_cases hx : x = a
    · subst hx
      have h1 : ¬(x + 1 ≤ x ∧ x < x + 1 + bs.length) := by omega
      have h2 : x ≤ x ∧ x < x + (bs.length + 1) := by omega
      rw [if_neg h1, if_pos rfl, if_pos h2]
      simp
    · by_cases hin : a + 1 ≤ x ∧ x < a + 1 + bs.length
      · have h2 : a ≤ x ∧ x < a + (bs.length + 1) := by omega
        have h3 : x - a = (x - (a + 1)) + 1 := by omega
        rw [if_pos hin, if_pos h2, h3]
        simp
      · have h2 : ¬(a ≤ x ∧ x < a + (bs.length + 1)) := by omega
        rw [if_neg hin, if_neg h2, if_neg hx]

@[simp] theorem Memory.length_readBytes (m : Memory) (a n : Nat) : (Memory.readBytes m a n).length = n := by
  induction n generalizing a with
  | zero => rfl
  | succ n ih => simp [Memory.readBytes, ih]

theorem Memory.getElem_readBytes (m : Memory) (a n i : Nat) (h : i < (Memory.readBytes m a n).length) :
    (Memory.readBytes m a n)[i] = Memory.read m (a + i) := by
  induction n generalizing a i with
  | zero => simp [Memory.readBytes] at h
  | succ n ih =>
    cases i with
    | zero => rfl
    | succ i =>
      simp only [Memory.readBytes, List.getElem_cons_succ]
      rw [ih]
      congr 1
      omega

/-- Byte strings read alike where every byte reads alike. -/
theorem Memory.readBytes_congr {m m' : Memory} {a n : Nat}
    (h : ∀ i, i < n → Memory.read m (a + i) = Memory.read m' (a + i)) :
    Memory.readBytes m a n = Memory.readBytes m' a n := by
  apply List.ext_getElem (by simp)
  intro i h1 h2
  simp only [Memory.getElem_readBytes]
  exact h i (by simpa using h1)

/-- A byte string just stored reads back. -/
theorem Memory.readBytes_writeBytes_same (m : Memory) (a : Nat) (bs : List Byte) (h : Memory.wf m) :
    Memory.readBytes (Memory.writeBytes m a bs) a bs.length = bs := by
  apply List.ext_getElem (by simp)
  intro i h1 h2
  rw [Memory.getElem_readBytes, Memory.read_writeBytes m a (a + i) bs h, if_pos ⟨by omega, by omega⟩]
  simp [List.getD_eq_getElem?_getD, h2]

/-- A byte string away from what was stored reads as before. -/
theorem Memory.readBytes_writeBytes_disjoint (m : Memory) (a x n : Nat) (bs : List Byte) (h : Memory.wf m)
    (hd : x + n ≤ a ∨ a + bs.length ≤ x) :
    Memory.readBytes (Memory.writeBytes m a bs) x n = Memory.readBytes m x n := by
  apply Memory.readBytes_congr
  intro i hi
  rw [Memory.read_writeBytes m a (x + i) bs h, if_neg (by omega)]

/-! ### The canonical form is canonical -/

theorem Memory.read_of_lt {m : Memory} {x : Nat} (h : ∀ c ∈ m, x < c.1) : Memory.read m x = Memory.unlisted := by
  induction m with
  | nil => rfl
  | cons c m ih =>
    obtain ⟨k, v⟩ := c
    have h1 : x < k := h (k, v) (by simp)
    have h2 : x ≠ k := by omega
    simp only [Memory.read, h2, if_false]
    exact ih fun c hc => h c (by simp [hc])

/-- Two memories in canonical form that read alike everywhere are the same list. -/
theorem Memory.ext_of_wf {m m' : Memory} (h : Memory.wf m) (h' : Memory.wf m')
    (hr : ∀ a, Memory.read m a = Memory.read m' a) : m = m' := by
  induction m generalizing m' with
  | nil =>
    cases m' with
    | nil => rfl
    | cons c m' =>
      obtain ⟨k, v⟩ := c
      have hv := h'.2 (k, v) (by simp)
      have := hr k
      simp [Memory.read] at this
      exact absurd this.symm hv
  | cons c m ih =>
    obtain ⟨k, v⟩ := c
    have hp := List.pairwise_cons.1 h.1
    have hv : v ≠ Memory.unlisted := h.2 (k, v) (by simp)
    cases m' with
    | nil =>
      have := hr k
      simp [Memory.read] at this
      exact absurd this hv
    | cons c' m' =>
      obtain ⟨k', v'⟩ := c'
      have hp' := List.pairwise_cons.1 h'.1
      have hv' : v' ≠ Memory.unlisted := h'.2 (k', v') (by simp)
      have hkk : k = k' := by
        rcases lt_trichotomy k k' with hlt | heq | hgt
        · have := hr k
          rw [Memory.read_of_lt (m := (k', v') :: m')] at this
          · simp [Memory.read] at this
            exact absurd this hv
          · intro c hc
            rcases List.mem_cons.1 hc with rfl | hc
            · exact hlt
            · exact lt_trans hlt (hp'.1 c hc)
        · exact heq
        · have := hr k'
          rw [Memory.read_of_lt (m := (k, v) :: m)] at this
          · simp [Memory.read] at this
            exact absurd this.symm hv'
          · intro c hc
            rcases List.mem_cons.1 hc with rfl | hc
            · exact hgt
            · exact lt_trans hgt (hp.1 c hc)
      subst hkk
      have hvv : v = v' := by simpa [Memory.read] using hr k
      subst hvv
      have hm : Memory.wf m := ⟨hp.2, fun c hc => h.2 c (List.mem_cons_of_mem _ hc)⟩
      have hm' : Memory.wf m' := ⟨hp'.2, fun c hc => h'.2 c (List.mem_cons_of_mem _ hc)⟩
      congr 1
      refine ih hm hm' fun a => ?_
      by_cases ha : a = k
      · subst ha
        rw [Memory.read_of_lt hp.1, Memory.read_of_lt hp'.1]
      · simpa [Memory.read, ha] using hr a

/-! ### Little-endian integers (00_scope.md R8) -/

@[simp] theorem length_leBytes (n v : Nat) : (leBytes n v).length = n := by
  induction n generalizing v with
  | zero => rfl
  | succ n ih => simp [leBytes, ih]

theorem getElem_leBytes (n v i : Nat) (h : i < (leBytes n v).length) :
    (leBytes n v)[i] = BitVec.ofNat 8 (v / 256 ^ i) := by
  induction n generalizing v i with
  | zero => simp [leBytes] at h
  | succ n ih =>
    cases i with
    | zero => simp [leBytes]
    | succ i =>
      simp only [leBytes, List.getElem_cons_succ]
      rw [ih, Nat.div_div_eq_div_mul, pow_succ']

theorem leInt_lt (b : List Byte) : leInt b < 256 ^ b.length := by
  induction b with
  | nil => simp [leInt]
  | cons x b ih =>
    have := x.isLt
    simp only [leInt, List.length_cons, pow_succ]
    omega

/-- `le_int(le_bytes(v, n))` is v, for a v that fits. -/
theorem leInt_leBytes (n v : Nat) : leInt (leBytes n v) = v % 256 ^ n := by
  induction n generalizing v with
  | zero => simp [leInt, leBytes, Nat.mod_one]
  | succ n ih =>
    have h := Nat.mod_mul (x := v) (a := 256) (b := 256 ^ n)
    have h8 : (BitVec.ofNat 8 v).toNat = v % 256 := by simp
    rw [leBytes, leInt, ih, pow_succ', h, h8]

/-- `le_bytes(le_int(b), n)` is b. -/
theorem leBytes_leInt (b : List Byte) : leBytes b.length (leInt b) = b := by
  induction b with
  | nil => rfl
  | cons x b ih =>
    have hx : x.toNat < 256 := x.isLt
    have h1 : (x.toNat + 256 * leInt b) / 256 = leInt b := by omega
    simp only [List.length_cons, leBytes, leInt, h1, ih]
    congr 1
    apply BitVec.eq_of_toNat_eq
    simp
    omega

end Sys2Proof.Machine
end

