-- ==== Sys2Proof/Laws/State.lean ====
section
/-!
SUPPORT. One lemma per field per update of State, and what the register accessors see of each update. No later proof unfolds a
record update.
-/

namespace Sys2Proof.Machine

variable (s : State)

/-! ### Register files -/

theorem readF_writeF (d r : FReg) (v : Fe) : (s.writeF d v).readF r = if r = d then v else s.readF r := by
  by_cases h : r = d
  · subst h; simp [State.readF, State.writeF]
  · have : d.val ≠ r.val := fun e => h (Fin.ext e.symm)
    simp [State.readF, State.writeF, h, Vector.getElem_set_ne, this]

@[simp] theorem readF_writeF_same (d : FReg) (v : Fe) : (s.writeF d v).readF d = v := by
  simp [readF_writeF]

@[simp] theorem readF_writeF_ne {d r : FReg} (v : Fe) (h : r ≠ d) : (s.writeF d v).readF r = s.readF r := by
  simp [readF_writeF, h]

theorem readP_writeP (d r : PReg) (v : Point) : (s.writeP d v).readP r = if r = d then v else s.readP r := by
  by_cases h : r = d
  · subst h; simp [State.readP, State.writeP]
  · have : d.val ≠ r.val := fun e => h (Fin.ext e.symm)
    simp [State.readP, State.writeP, h, Vector.getElem_set_ne, this]

@[simp] theorem readP_writeP_same (d : PReg) (v : Point) : (s.writeP d v).readP d = v := by
  simp [readP_writeP]

@[simp] theorem readP_writeP_ne {d r : PReg} (v : Point) (h : r ≠ d) : (s.writeP d v).readP r = s.readP r := by
  simp [readP_writeP, h]

@[simp] theorem readF_scrub (r : FReg) : s.scrub.readF r = Fe.ofNat 0 := by
  simp [State.readF, State.scrub, State.clearFlags]

@[simp] theorem readP_scrub (r : PReg) : s.scrub.readP r = Point.neutral := by
  simp [State.readP, State.scrub, State.clearFlags]

@[simp] theorem readF_reset (r : FReg) : State.reset.readF r = Fe.ofNat 0 := by
  simp [State.readF, State.reset]

@[simp] theorem readP_reset (r : PReg) : State.reset.readP r = Point.neutral := by
  simp [State.readP, State.reset]

/-! ### writeF -/

@[simp] theorem writeF_f (d : FReg) (v : Fe) : (s.writeF d v).f = s.f.set d.val v := rfl
@[simp] theorem writeF_p (d : FReg) (v : Fe) : (s.writeF d v).p = s.p := rfl
@[simp] theorem writeF_k (d : FReg) (v : Fe) : (s.writeF d v).k = s.k := rfl
@[simp] theorem writeF_xsk (d : FReg) (v : Fe) : (s.writeF d v).xsk = s.xsk := rfl
@[simp] theorem writeF_mem (d : FReg) (v : Fe) : (s.writeF d v).mem = s.mem := rfl
@[simp] theorem writeF_msglen (d : FReg) (v : Fe) : (s.writeF d v).msglen = s.msglen := rfl
@[simp] theorem writeF_cmd (d : FReg) (v : Fe) : (s.writeF d v).cmd = s.cmd := rfl
@[simp] theorem writeF_done (d : FReg) (v : Fe) : (s.writeF d v).done = s.done := rfl
@[simp] theorem writeF_ill (d : FReg) (v : Fe) : (s.writeF d v).ill = s.ill := rfl
@[simp] theorem writeF_valid (d : FReg) (v : Fe) : (s.writeF d v).valid = s.valid := rfl
@[simp] theorem writeF_eq (d : FReg) (v : Fe) : (s.writeF d v).eq = s.eq := rfl
@[simp] theorem writeF_even (d : FReg) (v : Fe) : (s.writeF d v).even = s.even := rfl
@[simp] theorem writeF_err (d : FReg) (v : Fe) : (s.writeF d v).err = s.err := rfl
@[simp] theorem writeF_inputs (d : FReg) (v : Fe) : (s.writeF d v).inputs = s.inputs := rfl
@[simp] theorem writeF_replies (d : FReg) (v : Fe) : (s.writeF d v).replies = s.replies := rfl
@[simp] theorem writeF_hashSent (d : FReg) (v : Fe) : (s.writeF d v).hashSent = s.hashSent := rfl
@[simp] theorem writeF_busyLeft (d : FReg) (v : Fe) : (s.writeF d v).busyLeft = s.busyLeft := rfl
@[simp] theorem writeF_latches (d : FReg) (v : Fe) : (s.writeF d v).latches = s.latches := rfl
@[simp] theorem readP_writeF (d : FReg) (v : Fe) (r : PReg) : (s.writeF d v).readP r = s.readP r := rfl
@[simp] theorem memRead_writeF (d : FReg) (v : Fe) (sp' : MemSpace) (a' n : Nat) : (s.writeF d v).memRead sp' a' n = s.memRead sp' a' n := rfl

/-! ### writeP -/

@[simp] theorem writeP_f (d : PReg) (v : Point) : (s.writeP d v).f = s.f := rfl
@[simp] theorem writeP_p (d : PReg) (v : Point) : (s.writeP d v).p = s.p.set d.val v := rfl
@[simp] theorem writeP_k (d : PReg) (v : Point) : (s.writeP d v).k = s.k := rfl
@[simp] theorem writeP_xsk (d : PReg) (v : Point) : (s.writeP d v).xsk = s.xsk := rfl
@[simp] theorem writeP_mem (d : PReg) (v : Point) : (s.writeP d v).mem = s.mem := rfl
@[simp] theorem writeP_msglen (d : PReg) (v : Point) : (s.writeP d v).msglen = s.msglen := rfl
@[simp] theorem writeP_cmd (d : PReg) (v : Point) : (s.writeP d v).cmd = s.cmd := rfl
@[simp] theorem writeP_done (d : PReg) (v : Point) : (s.writeP d v).done = s.done := rfl
@[simp] theorem writeP_ill (d : PReg) (v : Point) : (s.writeP d v).ill = s.ill := rfl
@[simp] theorem writeP_valid (d : PReg) (v : Point) : (s.writeP d v).valid = s.valid := rfl
@[simp] theorem writeP_eq (d : PReg) (v : Point) : (s.writeP d v).eq = s.eq := rfl
@[simp] theorem writeP_even (d : PReg) (v : Point) : (s.writeP d v).even = s.even := rfl
@[simp] theorem writeP_err (d : PReg) (v : Point) : (s.writeP d v).err = s.err := rfl
@[simp] theorem writeP_inputs (d : PReg) (v : Point) : (s.writeP d v).inputs = s.inputs := rfl
@[simp] theorem writeP_replies (d : PReg) (v : Point) : (s.writeP d v).replies = s.replies := rfl
@[simp] theorem writeP_hashSent (d : PReg) (v : Point) : (s.writeP d v).hashSent = s.hashSent := rfl
@[simp] theorem writeP_busyLeft (d : PReg) (v : Point) : (s.writeP d v).busyLeft = s.busyLeft := rfl
@[simp] theorem writeP_latches (d : PReg) (v : Point) : (s.writeP d v).latches = s.latches := rfl
@[simp] theorem readF_writeP (d : PReg) (v : Point) (r : FReg) : (s.writeP d v).readF r = s.readF r := rfl
@[simp] theorem memRead_writeP (d : PReg) (v : Point) (sp' : MemSpace) (a' n : Nat) : (s.writeP d v).memRead sp' a' n = s.memRead sp' a' n := rfl

/-! ### writeK -/

@[simp] theorem writeK_f (v : Nat) : (s.writeK v).f = s.f := rfl
@[simp] theorem writeK_p (v : Nat) : (s.writeK v).p = s.p := rfl
@[simp] theorem writeK_k (v : Nat) : (s.writeK v).k = BitVec.ofNat 512 v := rfl
@[simp] theorem writeK_xsk (v : Nat) : (s.writeK v).xsk = s.xsk := rfl
@[simp] theorem writeK_mem (v : Nat) : (s.writeK v).mem = s.mem := rfl
@[simp] theorem writeK_msglen (v : Nat) : (s.writeK v).msglen = s.msglen := rfl
@[simp] theorem writeK_cmd (v : Nat) : (s.writeK v).cmd = s.cmd := rfl
@[simp] theorem writeK_done (v : Nat) : (s.writeK v).done = s.done := rfl
@[simp] theorem writeK_ill (v : Nat) : (s.writeK v).ill = s.ill := rfl
@[simp] theorem writeK_valid (v : Nat) : (s.writeK v).valid = s.valid := rfl
@[simp] theorem writeK_eq (v : Nat) : (s.writeK v).eq = s.eq := rfl
@[simp] theorem writeK_even (v : Nat) : (s.writeK v).even = s.even := rfl
@[simp] theorem writeK_err (v : Nat) : (s.writeK v).err = s.err := rfl
@[simp] theorem writeK_inputs (v : Nat) : (s.writeK v).inputs = s.inputs := rfl
@[simp] theorem writeK_replies (v : Nat) : (s.writeK v).replies = s.replies := rfl
@[simp] theorem writeK_hashSent (v : Nat) : (s.writeK v).hashSent = s.hashSent := rfl
@[simp] theorem writeK_busyLeft (v : Nat) : (s.writeK v).busyLeft = s.busyLeft := rfl
@[simp] theorem writeK_latches (v : Nat) : (s.writeK v).latches = s.latches := rfl
@[simp] theorem readF_writeK (v : Nat) (r : FReg) : (s.writeK v).readF r = s.readF r := rfl
@[simp] theorem readP_writeK (v : Nat) (r : PReg) : (s.writeK v).readP r = s.readP r := rfl
@[simp] theorem memRead_writeK (v : Nat) (sp' : MemSpace) (a' n : Nat) : (s.writeK v).memRead sp' a' n = s.memRead sp' a' n := rfl

/-! ### writeXsk -/

@[simp] theorem writeXsk_f (v : Vector Byte 64) : (s.writeXsk v).f = s.f := rfl
@[simp] theorem writeXsk_p (v : Vector Byte 64) : (s.writeXsk v).p = s.p := rfl
@[simp] theorem writeXsk_k (v : Vector Byte 64) : (s.writeXsk v).k = s.k := rfl
@[simp] theorem writeXsk_xsk (v : Vector Byte 64) : (s.writeXsk v).xsk = v := rfl
@[simp] theorem writeXsk_mem (v : Vector Byte 64) : (s.writeXsk v).mem = s.mem := rfl
@[simp] theorem writeXsk_msglen (v : Vector Byte 64) : (s.writeXsk v).msglen = s.msglen := rfl
@[simp] theorem writeXsk_cmd (v : Vector Byte 64) : (s.writeXsk v).cmd = s.cmd := rfl
@[simp] theorem writeXsk_done (v : Vector Byte 64) : (s.writeXsk v).done = s.done := rfl
@[simp] theorem writeXsk_ill (v : Vector Byte 64) : (s.writeXsk v).ill = s.ill := rfl
@[simp] theorem writeXsk_valid (v : Vector Byte 64) : (s.writeXsk v).valid = s.valid := rfl
@[simp] theorem writeXsk_eq (v : Vector Byte 64) : (s.writeXsk v).eq = s.eq := rfl
@[simp] theorem writeXsk_even (v : Vector Byte 64) : (s.writeXsk v).even = s.even := rfl
@[simp] theorem writeXsk_err (v : Vector Byte 64) : (s.writeXsk v).err = s.err := rfl
@[simp] theorem writeXsk_inputs (v : Vector Byte 64) : (s.writeXsk v).inputs = s.inputs := rfl
@[simp] theorem writeXsk_replies (v : Vector Byte 64) : (s.writeXsk v).replies = s.replies := rfl
@[simp] theorem writeXsk_hashSent (v : Vector Byte 64) : (s.writeXsk v).hashSent = s.hashSent := rfl
@[simp] theorem writeXsk_busyLeft (v : Vector Byte 64) : (s.writeXsk v).busyLeft = s.busyLeft := rfl
@[simp] theorem writeXsk_latches (v : Vector Byte 64) : (s.writeXsk v).latches = s.latches := rfl
@[simp] theorem readF_writeXsk (v : Vector Byte 64) (r : FReg) : (s.writeXsk v).readF r = s.readF r := rfl
@[simp] theorem readP_writeXsk (v : Vector Byte 64) (r : PReg) : (s.writeXsk v).readP r = s.readP r := rfl
@[simp] theorem memRead_writeXsk (v : Vector Byte 64) (sp' : MemSpace) (a' n : Nat) : (s.writeXsk v).memRead sp' a' n = s.memRead sp' a' n := rfl

/-! ### memWrite -/

@[simp] theorem memWrite_f (sp : MemSpace) (a : Nat) (b : List Byte) : (s.memWrite sp a b).f = s.f := rfl
@[simp] theorem memWrite_p (sp : MemSpace) (a : Nat) (b : List Byte) : (s.memWrite sp a b).p = s.p := rfl
@[simp] theorem memWrite_k (sp : MemSpace) (a : Nat) (b : List Byte) : (s.memWrite sp a b).k = s.k := rfl
@[simp] theorem memWrite_xsk (sp : MemSpace) (a : Nat) (b : List Byte) : (s.memWrite sp a b).xsk = s.xsk := rfl
@[simp] theorem memWrite_mem (sp : MemSpace) (a : Nat) (b : List Byte) : (s.memWrite sp a b).mem = Memory.writeBytes s.mem (sp.base + a) b := rfl
@[simp] theorem memWrite_msglen (sp : MemSpace) (a : Nat) (b : List Byte) : (s.memWrite sp a b).msglen = s.msglen := rfl
@[simp] theorem memWrite_cmd (sp : MemSpace) (a : Nat) (b : List Byte) : (s.memWrite sp a b).cmd = s.cmd := rfl
@[simp] theorem memWrite_done (sp : MemSpace) (a : Nat) (b : List Byte) : (s.memWrite sp a b).done = s.done := rfl
@[simp] theorem memWrite_ill (sp : MemSpace) (a : Nat) (b : List Byte) : (s.memWrite sp a b).ill = s.ill := rfl
@[simp] theorem memWrite_valid (sp : MemSpace) (a : Nat) (b : List Byte) : (s.memWrite sp a b).valid = s.valid := rfl
@[simp] theorem memWrite_eq (sp : MemSpace) (a : Nat) (b : List Byte) : (s.memWrite sp a b).eq = s.eq := rfl
@[simp] theorem memWrite_even (sp : MemSpace) (a : Nat) (b : List Byte) : (s.memWrite sp a b).even = s.even := rfl
@[simp] theorem memWrite_err (sp : MemSpace) (a : Nat) (b : List Byte) : (s.memWrite sp a b).err = s.err := rfl
@[simp] theorem memWrite_inputs (sp : MemSpace) (a : Nat) (b : List Byte) : (s.memWrite sp a b).inputs = s.inputs := rfl
@[simp] theorem memWrite_replies (sp : MemSpace) (a : Nat) (b : List Byte) : (s.memWrite sp a b).replies = s.replies := rfl
@[simp] theorem memWrite_hashSent (sp : MemSpace) (a : Nat) (b : List Byte) : (s.memWrite sp a b).hashSent = s.hashSent := rfl
@[simp] theorem memWrite_busyLeft (sp : MemSpace) (a : Nat) (b : List Byte) : (s.memWrite sp a b).busyLeft = s.busyLeft := rfl
@[simp] theorem memWrite_latches (sp : MemSpace) (a : Nat) (b : List Byte) : (s.memWrite sp a b).latches = s.latches := rfl
@[simp] theorem readF_memWrite (sp : MemSpace) (a : Nat) (b : List Byte) (r : FReg) : (s.memWrite sp a b).readF r = s.readF r := rfl
@[simp] theorem readP_memWrite (sp : MemSpace) (a : Nat) (b : List Byte) (r : PReg) : (s.memWrite sp a b).readP r = s.readP r := rfl

/-! ### writeSlot -/

@[simp] theorem writeSlot_f (sl : Slot) (b : List Byte) : (s.writeSlot sl b).f = s.f := rfl
@[simp] theorem writeSlot_p (sl : Slot) (b : List Byte) : (s.writeSlot sl b).p = s.p := rfl
@[simp] theorem writeSlot_k (sl : Slot) (b : List Byte) : (s.writeSlot sl b).k = s.k := rfl
@[simp] theorem writeSlot_xsk (sl : Slot) (b : List Byte) : (s.writeSlot sl b).xsk = s.xsk := rfl
@[simp] theorem writeSlot_mem (sl : Slot) (b : List Byte) : (s.writeSlot sl b).mem = Memory.writeBytes s.mem (0x080 + Slot.addr sl) b := rfl
@[simp] theorem writeSlot_msglen (sl : Slot) (b : List Byte) : (s.writeSlot sl b).msglen = s.msglen := rfl
@[simp] theorem writeSlot_cmd (sl : Slot) (b : List Byte) : (s.writeSlot sl b).cmd = s.cmd := rfl
@[simp] theorem writeSlot_done (sl : Slot) (b : List Byte) : (s.writeSlot sl b).done = s.done := rfl
@[simp] theorem writeSlot_ill (sl : Slot) (b : List Byte) : (s.writeSlot sl b).ill = s.ill := rfl
@[simp] theorem writeSlot_valid (sl : Slot) (b : List Byte) : (s.writeSlot sl b).valid = s.valid := rfl
@[simp] theorem writeSlot_eq (sl : Slot) (b : List Byte) : (s.writeSlot sl b).eq = s.eq := rfl
@[simp] theorem writeSlot_even (sl : Slot) (b : List Byte) : (s.writeSlot sl b).even = s.even := rfl
@[simp] theorem writeSlot_err (sl : Slot) (b : List Byte) : (s.writeSlot sl b).err = s.err := rfl
@[simp] theorem writeSlot_inputs (sl : Slot) (b : List Byte) : (s.writeSlot sl b).inputs = s.inputs := rfl
@[simp] theorem writeSlot_replies (sl : Slot) (b : List Byte) : (s.writeSlot sl b).replies = s.replies := rfl
@[simp] theorem writeSlot_hashSent (sl : Slot) (b : List Byte) : (s.writeSlot sl b).hashSent = s.hashSent := rfl
@[simp] theorem writeSlot_busyLeft (sl : Slot) (b : List Byte) : (s.writeSlot sl b).busyLeft = s.busyLeft := rfl
@[simp] theorem writeSlot_latches (sl : Slot) (b : List Byte) : (s.writeSlot sl b).latches = s.latches := rfl
@[simp] theorem readF_writeSlot (sl : Slot) (b : List Byte) (r : FReg) : (s.writeSlot sl b).readF r = s.readF r := rfl
@[simp] theorem readP_writeSlot (sl : Slot) (b : List Byte) (r : PReg) : (s.writeSlot sl b).readP r = s.readP r := rfl

/-! ### writeValid -/

@[simp] theorem writeValid_f (b : Bool) : (s.writeValid b).f = s.f := rfl
@[simp] theorem writeValid_p (b : Bool) : (s.writeValid b).p = s.p := rfl
@[simp] theorem writeValid_k (b : Bool) : (s.writeValid b).k = s.k := rfl
@[simp] theorem writeValid_xsk (b : Bool) : (s.writeValid b).xsk = s.xsk := rfl
@[simp] theorem writeValid_mem (b : Bool) : (s.writeValid b).mem = s.mem := rfl
@[simp] theorem writeValid_msglen (b : Bool) : (s.writeValid b).msglen = s.msglen := rfl
@[simp] theorem writeValid_cmd (b : Bool) : (s.writeValid b).cmd = s.cmd := rfl
@[simp] theorem writeValid_done (b : Bool) : (s.writeValid b).done = s.done := rfl
@[simp] theorem writeValid_ill (b : Bool) : (s.writeValid b).ill = s.ill := rfl
@[simp] theorem writeValid_valid (b : Bool) : (s.writeValid b).valid = b := rfl
@[simp] theorem writeValid_eq (b : Bool) : (s.writeValid b).eq = s.eq := rfl
@[simp] theorem writeValid_even (b : Bool) : (s.writeValid b).even = s.even := rfl
@[simp] theorem writeValid_err (b : Bool) : (s.writeValid b).err = s.err := rfl
@[simp] theorem writeValid_inputs (b : Bool) : (s.writeValid b).inputs = s.inputs := rfl
@[simp] theorem writeValid_replies (b : Bool) : (s.writeValid b).replies = s.replies := rfl
@[simp] theorem writeValid_hashSent (b : Bool) : (s.writeValid b).hashSent = s.hashSent := rfl
@[simp] theorem writeValid_busyLeft (b : Bool) : (s.writeValid b).busyLeft = s.busyLeft := rfl
@[simp] theorem writeValid_latches (b : Bool) : (s.writeValid b).latches = s.latches := rfl
@[simp] theorem readF_writeValid (b : Bool) (r : FReg) : (s.writeValid b).readF r = s.readF r := rfl
@[simp] theorem readP_writeValid (b : Bool) (r : PReg) : (s.writeValid b).readP r = s.readP r := rfl
@[simp] theorem memRead_writeValid (b : Bool) (sp' : MemSpace) (a' n : Nat) : (s.writeValid b).memRead sp' a' n = s.memRead sp' a' n := rfl

/-! ### writeEq -/

@[simp] theorem writeEq_f (b : Bool) : (s.writeEq b).f = s.f := rfl
@[simp] theorem writeEq_p (b : Bool) : (s.writeEq b).p = s.p := rfl
@[simp] theorem writeEq_k (b : Bool) : (s.writeEq b).k = s.k := rfl
@[simp] theorem writeEq_xsk (b : Bool) : (s.writeEq b).xsk = s.xsk := rfl
@[simp] theorem writeEq_mem (b : Bool) : (s.writeEq b).mem = s.mem := rfl
@[simp] theorem writeEq_msglen (b : Bool) : (s.writeEq b).msglen = s.msglen := rfl
@[simp] theorem writeEq_cmd (b : Bool) : (s.writeEq b).cmd = s.cmd := rfl
@[simp] theorem writeEq_done (b : Bool) : (s.writeEq b).done = s.done := rfl
@[simp] theorem writeEq_ill (b : Bool) : (s.writeEq b).ill = s.ill := rfl
@[simp] theorem writeEq_valid (b : Bool) : (s.writeEq b).valid = s.valid := rfl
@[simp] theorem writeEq_eq (b : Bool) : (s.writeEq b).eq = b := rfl
@[simp] theorem writeEq_even (b : Bool) : (s.writeEq b).even = s.even := rfl
@[simp] theorem writeEq_err (b : Bool) : (s.writeEq b).err = s.err := rfl
@[simp] theorem writeEq_inputs (b : Bool) : (s.writeEq b).inputs = s.inputs := rfl
@[simp] theorem writeEq_replies (b : Bool) : (s.writeEq b).replies = s.replies := rfl
@[simp] theorem writeEq_hashSent (b : Bool) : (s.writeEq b).hashSent = s.hashSent := rfl
@[simp] theorem writeEq_busyLeft (b : Bool) : (s.writeEq b).busyLeft = s.busyLeft := rfl
@[simp] theorem writeEq_latches (b : Bool) : (s.writeEq b).latches = s.latches := rfl
@[simp] theorem readF_writeEq (b : Bool) (r : FReg) : (s.writeEq b).readF r = s.readF r := rfl
@[simp] theorem readP_writeEq (b : Bool) (r : PReg) : (s.writeEq b).readP r = s.readP r := rfl
@[simp] theorem memRead_writeEq (b : Bool) (sp' : MemSpace) (a' n : Nat) : (s.writeEq b).memRead sp' a' n = s.memRead sp' a' n := rfl

/-! ### writeEven -/

@[simp] theorem writeEven_f (b : Bool) : (s.writeEven b).f = s.f := rfl
@[simp] theorem writeEven_p (b : Bool) : (s.writeEven b).p = s.p := rfl
@[simp] theorem writeEven_k (b : Bool) : (s.writeEven b).k = s.k := rfl
@[simp] theorem writeEven_xsk (b : Bool) : (s.writeEven b).xsk = s.xsk := rfl
@[simp] theorem writeEven_mem (b : Bool) : (s.writeEven b).mem = s.mem := rfl
@[simp] theorem writeEven_msglen (b : Bool) : (s.writeEven b).msglen = s.msglen := rfl
@[simp] theorem writeEven_cmd (b : Bool) : (s.writeEven b).cmd = s.cmd := rfl
@[simp] theorem writeEven_done (b : Bool) : (s.writeEven b).done = s.done := rfl
@[simp] theorem writeEven_ill (b : Bool) : (s.writeEven b).ill = s.ill := rfl
@[simp] theorem writeEven_valid (b : Bool) : (s.writeEven b).valid = s.valid := rfl
@[simp] theorem writeEven_eq (b : Bool) : (s.writeEven b).eq = s.eq := rfl
@[simp] theorem writeEven_even (b : Bool) : (s.writeEven b).even = b := rfl
@[simp] theorem writeEven_err (b : Bool) : (s.writeEven b).err = s.err := rfl
@[simp] theorem writeEven_inputs (b : Bool) : (s.writeEven b).inputs = s.inputs := rfl
@[simp] theorem writeEven_replies (b : Bool) : (s.writeEven b).replies = s.replies := rfl
@[simp] theorem writeEven_hashSent (b : Bool) : (s.writeEven b).hashSent = s.hashSent := rfl
@[simp] theorem writeEven_busyLeft (b : Bool) : (s.writeEven b).busyLeft = s.busyLeft := rfl
@[simp] theorem writeEven_latches (b : Bool) : (s.writeEven b).latches = s.latches := rfl
@[simp] theorem readF_writeEven (b : Bool) (r : FReg) : (s.writeEven b).readF r = s.readF r := rfl
@[simp] theorem readP_writeEven (b : Bool) (r : PReg) : (s.writeEven b).readP r = s.readP r := rfl
@[simp] theorem memRead_writeEven (b : Bool) (sp' : MemSpace) (a' n : Nat) : (s.writeEven b).memRead sp' a' n = s.memRead sp' a' n := rfl

/-! ### clearFlags -/

@[simp] theorem clearFlags_f : (s.clearFlags).f = s.f := rfl
@[simp] theorem clearFlags_p : (s.clearFlags).p = s.p := rfl
@[simp] theorem clearFlags_k : (s.clearFlags).k = s.k := rfl
@[simp] theorem clearFlags_xsk : (s.clearFlags).xsk = s.xsk := rfl
@[simp] theorem clearFlags_mem : (s.clearFlags).mem = s.mem := rfl
@[simp] theorem clearFlags_msglen : (s.clearFlags).msglen = s.msglen := rfl
@[simp] theorem clearFlags_cmd : (s.clearFlags).cmd = s.cmd := rfl
@[simp] theorem clearFlags_done : (s.clearFlags).done = s.done := rfl
@[simp] theorem clearFlags_ill : (s.clearFlags).ill = s.ill := rfl
@[simp] theorem clearFlags_valid : (s.clearFlags).valid = false := rfl
@[simp] theorem clearFlags_eq : (s.clearFlags).eq = false := rfl
@[simp] theorem clearFlags_even : (s.clearFlags).even = false := rfl
@[simp] theorem clearFlags_err : (s.clearFlags).err = s.err := rfl
@[simp] theorem clearFlags_inputs : (s.clearFlags).inputs = s.inputs := rfl
@[simp] theorem clearFlags_replies : (s.clearFlags).replies = s.replies := rfl
@[simp] theorem clearFlags_hashSent : (s.clearFlags).hashSent = s.hashSent := rfl
@[simp] theorem clearFlags_busyLeft : (s.clearFlags).busyLeft = s.busyLeft := rfl
@[simp] theorem clearFlags_latches : (s.clearFlags).latches = s.latches := rfl
@[simp] theorem readF_clearFlags (r : FReg) : (s.clearFlags).readF r = s.readF r := rfl
@[simp] theorem readP_clearFlags (r : PReg) : (s.clearFlags).readP r = s.readP r := rfl
@[simp] theorem memRead_clearFlags (sp' : MemSpace) (a' n : Nat) : (s.clearFlags).memRead sp' a' n = s.memRead sp' a' n := rfl

/-! ### scrub -/

@[simp] theorem scrub_f : (s.scrub).f = Vector.replicate 8 (Fe.ofNat 0) := rfl
@[simp] theorem scrub_p : (s.scrub).p = Vector.replicate 4 Point.neutral := rfl
@[simp] theorem scrub_k : (s.scrub).k = 0 := rfl
@[simp] theorem scrub_xsk : (s.scrub).xsk = s.xsk := rfl
@[simp] theorem scrub_mem : (s.scrub).mem = s.mem := rfl
@[simp] theorem scrub_msglen : (s.scrub).msglen = s.msglen := rfl
@[simp] theorem scrub_cmd : (s.scrub).cmd = s.cmd := rfl
@[simp] theorem scrub_done : (s.scrub).done = s.done := rfl
@[simp] theorem scrub_ill : (s.scrub).ill = s.ill := rfl
@[simp] theorem scrub_valid : (s.scrub).valid = false := rfl
@[simp] theorem scrub_eq : (s.scrub).eq = false := rfl
@[simp] theorem scrub_even : (s.scrub).even = false := rfl
@[simp] theorem scrub_err : (s.scrub).err = s.err := rfl
@[simp] theorem scrub_inputs : (s.scrub).inputs = s.inputs := rfl
@[simp] theorem scrub_replies : (s.scrub).replies = s.replies := rfl
@[simp] theorem scrub_hashSent : (s.scrub).hashSent = s.hashSent := rfl
@[simp] theorem scrub_busyLeft : (s.scrub).busyLeft = s.busyLeft := rfl
@[simp] theorem scrub_latches : (s.scrub).latches = s.latches := rfl
@[simp] theorem memRead_scrub (sp' : MemSpace) (a' n : Nat) : (s.scrub).memRead sp' a' n = s.memRead sp' a' n := rfl

/-! ### send -/

@[simp] theorem send_f (ms : List (List Byte)) : (s.send ms).f = s.f := rfl
@[simp] theorem send_p (ms : List (List Byte)) : (s.send ms).p = s.p := rfl
@[simp] theorem send_k (ms : List (List Byte)) : (s.send ms).k = s.k := rfl
@[simp] theorem send_xsk (ms : List (List Byte)) : (s.send ms).xsk = s.xsk := rfl
@[simp] theorem send_mem (ms : List (List Byte)) : (s.send ms).mem = s.mem := rfl
@[simp] theorem send_msglen (ms : List (List Byte)) : (s.send ms).msglen = s.msglen := rfl
@[simp] theorem send_cmd (ms : List (List Byte)) : (s.send ms).cmd = s.cmd := rfl
@[simp] theorem send_done (ms : List (List Byte)) : (s.send ms).done = s.done := rfl
@[simp] theorem send_ill (ms : List (List Byte)) : (s.send ms).ill = s.ill := rfl
@[simp] theorem send_valid (ms : List (List Byte)) : (s.send ms).valid = s.valid := rfl
@[simp] theorem send_eq (ms : List (List Byte)) : (s.send ms).eq = s.eq := rfl
@[simp] theorem send_even (ms : List (List Byte)) : (s.send ms).even = s.even := rfl
@[simp] theorem send_err (ms : List (List Byte)) : (s.send ms).err = s.err := rfl
@[simp] theorem send_inputs (ms : List (List Byte)) : (s.send ms).inputs = s.inputs := rfl
@[simp] theorem send_replies (ms : List (List Byte)) : (s.send ms).replies = s.replies := rfl
@[simp] theorem send_hashSent (ms : List (List Byte)) : (s.send ms).hashSent = s.hashSent ++ ms := rfl
@[simp] theorem send_busyLeft (ms : List (List Byte)) : (s.send ms).busyLeft = s.busyLeft := rfl
@[simp] theorem send_latches (ms : List (List Byte)) : (s.send ms).latches = s.latches := rfl
@[simp] theorem readF_send (ms : List (List Byte)) (r : FReg) : (s.send ms).readF r = s.readF r := rfl
@[simp] theorem readP_send (ms : List (List Byte)) (r : PReg) : (s.send ms).readP r = s.readP r := rfl
@[simp] theorem memRead_send (ms : List (List Byte)) (sp' : MemSpace) (a' n : Nat) : (s.send ms).memRead sp' a' n = s.memRead sp' a' n := rfl

/-! ### complete -/

@[simp] theorem complete_f (e : ResultCode) : (s.complete e).f = s.f := rfl
@[simp] theorem complete_p (e : ResultCode) : (s.complete e).p = s.p := rfl
@[simp] theorem complete_k (e : ResultCode) : (s.complete e).k = s.k := rfl
@[simp] theorem complete_xsk (e : ResultCode) : (s.complete e).xsk = s.xsk := rfl
@[simp] theorem complete_mem (e : ResultCode) : (s.complete e).mem = s.mem := rfl
@[simp] theorem complete_msglen (e : ResultCode) : (s.complete e).msglen = s.msglen := rfl
@[simp] theorem complete_cmd (e : ResultCode) : (s.complete e).cmd = none := rfl
@[simp] theorem complete_done (e : ResultCode) : (s.complete e).done = true := rfl
@[simp] theorem complete_ill (e : ResultCode) : (s.complete e).ill = s.ill := rfl
@[simp] theorem complete_valid (e : ResultCode) : (s.complete e).valid = s.valid := rfl
@[simp] theorem complete_eq (e : ResultCode) : (s.complete e).eq = s.eq := rfl
@[simp] theorem complete_even (e : ResultCode) : (s.complete e).even = s.even := rfl
@[simp] theorem complete_err (e : ResultCode) : (s.complete e).err = e := rfl
@[simp] theorem complete_inputs (e : ResultCode) : (s.complete e).inputs = s.inputs := rfl
@[simp] theorem complete_replies (e : ResultCode) : (s.complete e).replies = s.replies := rfl
@[simp] theorem complete_hashSent (e : ResultCode) : (s.complete e).hashSent = s.hashSent := rfl
@[simp] theorem complete_busyLeft (e : ResultCode) : (s.complete e).busyLeft = s.busyLeft := rfl
@[simp] theorem complete_latches (e : ResultCode) : (s.complete e).latches = s.latches := rfl
@[simp] theorem readF_complete (e : ResultCode) (r : FReg) : (s.complete e).readF r = s.readF r := rfl
@[simp] theorem readP_complete (e : ResultCode) (r : PReg) : (s.complete e).readP r = s.readP r := rfl
@[simp] theorem memRead_complete (e : ResultCode) (sp' : MemSpace) (a' n : Nat) : (s.complete e).memRead sp' a' n = s.memRead sp' a' n := rfl

/-! ### illegal -/

@[simp] theorem illegal_f : (s.illegal).f = s.f := rfl
@[simp] theorem illegal_p : (s.illegal).p = s.p := rfl
@[simp] theorem illegal_k : (s.illegal).k = s.k := rfl
@[simp] theorem illegal_xsk : (s.illegal).xsk = s.xsk := rfl
@[simp] theorem illegal_mem : (s.illegal).mem = s.mem := rfl
@[simp] theorem illegal_msglen : (s.illegal).msglen = s.msglen := rfl
@[simp] theorem illegal_cmd : (s.illegal).cmd = none := rfl
@[simp] theorem illegal_done : (s.illegal).done = true := rfl
@[simp] theorem illegal_ill : (s.illegal).ill = true := rfl
@[simp] theorem illegal_valid : (s.illegal).valid = s.valid := rfl
@[simp] theorem illegal_eq : (s.illegal).eq = s.eq := rfl
@[simp] theorem illegal_even : (s.illegal).even = s.even := rfl
@[simp] theorem illegal_err : (s.illegal).err = .illegalCommand := rfl
@[simp] theorem illegal_inputs : (s.illegal).inputs = s.inputs := rfl
@[simp] theorem illegal_replies : (s.illegal).replies = s.replies := rfl
@[simp] theorem illegal_hashSent : (s.illegal).hashSent = s.hashSent := rfl
@[simp] theorem illegal_busyLeft : (s.illegal).busyLeft = s.busyLeft := rfl
@[simp] theorem illegal_latches : (s.illegal).latches = s.latches := rfl
@[simp] theorem readF_illegal (r : FReg) : (s.illegal).readF r = s.readF r := rfl
@[simp] theorem readP_illegal (r : PReg) : (s.illegal).readP r = s.readP r := rfl
@[simp] theorem memRead_illegal (sp' : MemSpace) (a' n : Nat) : (s.illegal).memRead sp' a' n = s.memRead sp' a' n := rfl

/-! ### latch -/

@[simp] theorem latch_f (w : Word) : (s.latch w).f = s.f := rfl
@[simp] theorem latch_p (w : Word) : (s.latch w).p = s.p := rfl
@[simp] theorem latch_k (w : Word) : (s.latch w).k = s.k := rfl
@[simp] theorem latch_xsk (w : Word) : (s.latch w).xsk = s.xsk := rfl
@[simp] theorem latch_mem (w : Word) : (s.latch w).mem = s.mem := rfl
@[simp] theorem latch_msglen (w : Word) : (s.latch w).msglen = s.msglen := rfl
@[simp] theorem latch_cmd (w : Word) : (s.latch w).cmd = some w := rfl
@[simp] theorem latch_done (w : Word) : (s.latch w).done = false := rfl
@[simp] theorem latch_ill (w : Word) : (s.latch w).ill = s.ill := rfl
@[simp] theorem latch_valid (w : Word) : (s.latch w).valid = s.valid := rfl
@[simp] theorem latch_eq (w : Word) : (s.latch w).eq = s.eq := rfl
@[simp] theorem latch_even (w : Word) : (s.latch w).even = s.even := rfl
@[simp] theorem latch_err (w : Word) : (s.latch w).err = s.err := rfl
@[simp] theorem latch_inputs (w : Word) : (s.latch w).inputs = s.inputs := rfl
@[simp] theorem latch_replies (w : Word) : (s.latch w).replies = s.replies := rfl
@[simp] theorem latch_hashSent (w : Word) : (s.latch w).hashSent = s.hashSent := rfl
@[simp] theorem latch_busyLeft (w : Word) : (s.latch w).busyLeft = Config.busyPolls s.latches := rfl
@[simp] theorem latch_latches (w : Word) : (s.latch w).latches = s.latches + 1 := rfl
@[simp] theorem readF_latch (w : Word) (r : FReg) : (s.latch w).readF r = s.readF r := rfl
@[simp] theorem readP_latch (w : Word) (r : PReg) : (s.latch w).readP r = s.readP r := rfl
@[simp] theorem memRead_latch (w : Word) (sp' : MemSpace) (a' n : Nat) : (s.latch w).memRead sp' a' n = s.memRead sp' a' n := rfl

/-! ### reply -/

@[simp] theorem reply_f (r : HostReply) : (s.reply r).f = s.f := rfl
@[simp] theorem reply_p (r : HostReply) : (s.reply r).p = s.p := rfl
@[simp] theorem reply_k (r : HostReply) : (s.reply r).k = s.k := rfl
@[simp] theorem reply_xsk (r : HostReply) : (s.reply r).xsk = s.xsk := rfl
@[simp] theorem reply_mem (r : HostReply) : (s.reply r).mem = s.mem := rfl
@[simp] theorem reply_msglen (r : HostReply) : (s.reply r).msglen = s.msglen := rfl
@[simp] theorem reply_cmd (r : HostReply) : (s.reply r).cmd = s.cmd := rfl
@[simp] theorem reply_done (r : HostReply) : (s.reply r).done = s.done := rfl
@[simp] theorem reply_ill (r : HostReply) : (s.reply r).ill = s.ill := rfl
@[simp] theorem reply_valid (r : HostReply) : (s.reply r).valid = s.valid := rfl
@[simp] theorem reply_eq (r : HostReply) : (s.reply r).eq = s.eq := rfl
@[simp] theorem reply_even (r : HostReply) : (s.reply r).even = s.even := rfl
@[simp] theorem reply_err (r : HostReply) : (s.reply r).err = s.err := rfl
@[simp] theorem reply_inputs (r : HostReply) : (s.reply r).inputs = s.inputs := rfl
@[simp] theorem reply_replies (r : HostReply) : (s.reply r).replies = s.replies ++ [r] := rfl
@[simp] theorem reply_hashSent (r : HostReply) : (s.reply r).hashSent = s.hashSent := rfl
@[simp] theorem reply_busyLeft (r : HostReply) : (s.reply r).busyLeft = s.busyLeft := rfl
@[simp] theorem reply_latches (r : HostReply) : (s.reply r).latches = s.latches := rfl
@[simp] theorem readF_reply (a : HostReply) (r : FReg) : (s.reply a).readF r = s.readF r := rfl
@[simp] theorem readP_reply (a : HostReply) (r : PReg) : (s.reply a).readP r = s.readP r := rfl
@[simp] theorem memRead_reply (r : HostReply) (sp' : MemSpace) (a' n : Nat) : (s.reply r).memRead sp' a' n = s.memRead sp' a' n := rfl

end Sys2Proof.Machine
end

