-- ==== Sys2Proof/Laws/Ops.lean ====
section
/-!
SUPPORT. What each shared operation can do, said once: how commands end, the slots, the window's accesses and the configuration's
bounds.
-/

namespace Sys2Proof.Machine

/-! ### Configuration (00_scope.md R6) -/

theorem msgMax_le : Config.msgMax ≤ 2 ^ 32 - 4096 := by
  have := Config.msgWords.isLt
  unfold Config.msgMax
  omega

theorem msgMax_mod : Config.msgMax % 4 = 0 := by
  unfold Config.msgMax
  omega

/-! ### How a command ends -/

theorem ended_complete (s : State) (e : ResultCode) : Ended e (s.complete e) := ⟨rfl, rfl, rfl⟩

theorem ended_illegal (s : State) : Ended .illegalCommand s.illegal := ⟨rfl, rfl, rfl⟩

theorem scrubbed_scrub (s : State) : Scrubbed s.scrub where
  f := fun r => by rw [readF_scrub]; decide
  p := fun r => readP_scrub s r
  k := rfl
  valid := rfl
  eq := rfl
  even := rfl

/-! ### Slots (20_memory.md R61, R71) -/

theorem slotOffset_eq (sl : Slot) : MemSpace.base .io + Slot.addr sl = slotOffset sl.val := rfl

@[simp] theorem length_readSlot (s : State) (sl : Slot) : (s.readSlot sl).length = 32 := by
  simp [State.readSlot, State.memRead]

@[simp] theorem length_readSlotPair (s : State) (sl : Slot) : (s.readSlotPair sl).length = 64 := by
  simp [State.readSlotPair, State.memRead]

@[simp] theorem length_penc (P : Point) : (penc P).length = 32 := by simp [penc]

@[simp] theorem length_hashOf (m : List Byte) : (hashOf m).length = 64 := by simp [hashOf]

@[simp] theorem length_message (s : State) : s.message.length = s.msglen.toNat := by
  simp [State.message, State.memRead]

/-- A slot's byte i is the byte of memory at its offset. -/
theorem getElem_readSlot (s : State) (sl : Slot) (i : Nat) (h : i < (s.readSlot sl).length) :
    (s.readSlot sl)[i] = Memory.read s.mem (slotOffset sl.val + i) :=
  Memory.getElem_readBytes s.mem (slotOffset sl.val) 32 i h

/-- What a byte of memory reads as after a byte string was written to a slot (or, with 64 bytes, to two). -/
theorem read_writeSlot (s : State) (sl : Slot) (b : List Byte) (a : Nat) (h : Memory.wf s.mem) :
    Memory.read (s.writeSlot sl b).mem a =
      if slotOffset sl.val ≤ a ∧ a < slotOffset sl.val + b.length then b.getD (a - slotOffset sl.val) 0
      else Memory.read s.mem a :=
  Memory.read_writeBytes s.mem (slotOffset sl.val) a b h

/-- A slot just written reads back. -/
theorem readSlot_writeSlot_same (s : State) (sl : Slot) (b : List Byte) (h : Memory.wf s.mem) (hb : b.length = 32) :
    (s.writeSlot sl b).readSlot sl = b := by
  have := Memory.readBytes_writeBytes_same s.mem (0x080 + Slot.addr sl) b h
  rw [hb] at this
  exact this

/-- Another slot reads as before. -/
theorem readSlot_writeSlot_ne (s : State) {sl sl' : Slot} (b : List Byte) (h : Memory.wf s.mem) (hb : b.length = 32)
    (hne : sl' ≠ sl) : (s.writeSlot sl b).readSlot sl' = s.readSlot sl' := by
  refine Memory.readBytes_writeBytes_disjoint s.mem (0x080 + Slot.addr sl) (0x080 + Slot.addr sl') 32 b h ?_
  have : sl'.val ≠ sl.val := fun e => hne (Fin.ext e)
  rw [hb]
  simp only [Slot.addr]
  omega

/-- The message lies above IO: writing a slot does not change it. -/
theorem message_writeSlot (s : State) (sl : Slot) (b : List Byte) (h : Memory.wf s.mem) (hb : b.length = 32) :
    (s.writeSlot sl b).message = s.message := by
  refine Memory.readBytes_writeBytes_disjoint s.mem (0x080 + Slot.addr sl) (0x1000 + 0) _ b h ?_
  have := sl.isLt
  rw [hb]
  simp only [Slot.addr]
  omega

/-- Writing a slot lists bytes of IO only. -/
theorem mem_writeSlot {s : State} {sl : Slot} {b : List Byte} {c : Host.Cell} (h : c ∈ (s.writeSlot sl b).mem)
    (hb : sl.val * 32 + b.length ≤ 128) : c ∈ s.mem ∨ inIO c.1 := by
  rcases Memory.mem_writeBytes (m := s.mem) (a := 0x080 + Slot.addr sl) (bs := b) h with h | h
  · exact .inl h
  · refine .inr ?_
    simp only [Slot.addr] at h
    simp only [inIO, Bool.and_eq_true, decide_eq_true_eq]
    omega

@[simp] theorem toList_bytes64 (l : List Byte) (h : l.length = 64) : (bytes64 l).toList = l := by
  apply List.ext_getElem
  · simp [h]
  · intro i h1 h2
    simp [bytes64, List.getD_eq_getElem?_getD, h2]

/-! ### The window (20_memory.md R61) -/

theorem accessOk_iff (width off : Nat) :
    accessOk width off = true ↔ width = 32 ∧ off % 4 = 0 ∧
      (off = 0 ∨ off = 4 ∨ off = 8 ∨ (0x080 ≤ off ∧ off < 0x100) ∨ (0x1000 ≤ off ∧ off < 0x1000 + Config.msgMax)) := by
  unfold accessOk windowRow inIO inMSG
  by_cases h0 : off = 0
  · simp [h0]
  by_cases h4 : off = 4
  · simp [h4]
  by_cases h8 : off = 8
  · simp [h8]
  by_cases h : ((decide (0x080 ≤ off) && decide (off < 0x100)) ||
      (decide (0x1000 ≤ off) && decide (off < 0x1000 + Config.msgMax))) = true
  · have h' := h
    simp only [Bool.or_eq_true, Bool.and_eq_true, decide_eq_true_eq] at h'
    simp [h0, h4, h8, h, h']
  · have h' := h
    simp only [Bool.or_eq_true, Bool.and_eq_true, decide_eq_true_eq] at h'
    simp [h0, h4, h8, h, h']

theorem isStatusRead_iff (a : HostAccess) : a.isStatusRead = true ↔ a = .read 32 4 := by
  cases a with
  | read width off => simp [HostAccess.isStatusRead]
  | write width off v => simp [HostAccess.isStatusRead]

end Sys2Proof.Machine
end

