-- ==== Sys2Proof/Laws/PerInstr.lean ====
section
/-!
SUPPORT. Facts about every command as syntax, one lemma per constructor.
-/

namespace Sys2Proof.Laws.EncodedRow

/- Theorems that wait for the kernel at once need a thread each; elaborated in order they do not. -/
set_option Elab.async false

/-- The encoder's word passes the mask test of the command's own row of the opcode map (30_encoding.md R95), legal or not: the two
columns of the map and the field layout of R91 agree. -/
def Statement (i : Instr) : Prop := encode i &&& i.opcode.mask = i.opcode.matchBits

theorem fadd (d a b : FReg) : Statement (.fadd d a b) := by
  revert d a b; unfold Statement; decide +kernel

theorem fsub (d a b : FReg) : Statement (.fsub d a b) := by
  revert d a b; unfold Statement; decide +kernel

theorem fneg (d a : FReg) : Statement (.fneg d a) := by
  revert d a; unfold Statement; decide +kernel

theorem fmul (d a b : FReg) : Statement (.fmul d a b) := by
  revert d a b; unfold Statement; decide +kernel

theorem fsqr (d a : FReg) : Statement (.fsqr d a) := by
  revert d a; unfold Statement; decide +kernel

theorem finv (d a : FReg) : Statement (.finv d a) := by
  revert d a; unfold Statement; decide +kernel

theorem fexp (d a : FReg) : Statement (.fexp d a) := by
  revert d a; unfold Statement; decide +kernel

theorem fsqrt (d e a : FReg) : Statement (.fsqrt d e a) := by
  revert d e a; unfold Statement; decide +kernel

theorem feq (a b : FReg) : Statement (.feq a b) := by
  revert a b; unfold Statement; decide +kernel

theorem fpar (a : FReg) : Statement (.fpar a) := by
  revert a; unfold Statement; decide +kernel

theorem fmov (d a : FReg) : Statement (.fmov d a) := by
  revert d a; unfold Statement; decide +kernel

theorem fldc (d : FReg) (c : FieldConst) : Statement (.fldc d c) := by
  cases c
  all_goals (revert d; unfold Statement; decide +kernel)

theorem fld (d : FReg) (sl : Slot) : Statement (.fld d sl) := by
  revert d sl; unfold Statement; decide +kernel

theorem fst (a : FReg) (sl : Slot) : Statement (.fst a sl) := by
  revert a sl; unfold Statement; decide +kernel

theorem padd (d a b : PReg) : Statement (.padd d a b) := by
  revert d a b; unfold Statement; decide +kernel

theorem pdbl (d a : PReg) : Statement (.pdbl d a) := by
  revert d a; unfold Statement; decide +kernel

theorem pneg (d a : PReg) : Statement (.pneg d a) := by
  revert d a; unfold Statement; decide +kernel

theorem peq (a b : PReg) : Statement (.peq a b) := by
  revert a b; unfold Statement; decide +kernel

theorem pmov (d a : PReg) : Statement (.pmov d a) := by
  revert d a; unfold Statement; decide +kernel

theorem pldc (d : PReg) (c : PointConst) : Statement (.pldc d c) := by
  cases c
  all_goals (revert d; unfold Statement; decide +kernel)

theorem paff (d e : FReg) (a : PReg) : Statement (.paff d e a) := by
  revert d e a; unfold Statement; decide +kernel

theorem pfaf (d : PReg) (a b : FReg) : Statement (.pfaf d a b) := by
  revert d a b; unfold Statement; decide +kernel

theorem pdec (d : PReg) (sl : Slot) : Statement (.pdec d sl) := by
  revert d sl; unfold Statement; decide +kernel

theorem penc (a : PReg) (sl : Slot) : Statement (.penc a sl) := by
  revert a sl; unfold Statement; decide +kernel

theorem smul (d a : PReg) (w : Width) : Statement (.smul d a w) := by
  cases w
  all_goals (revert d a; unfold Statement; decide +kernel)

theorem kld (sl : Slot) (w : Width) : Statement (.kld sl w) := by
  cases w
  all_goals (revert sl; unfold Statement; decide +kernel)

theorem kst (sl : Slot) (w : Width) : Statement (.kst sl w) := by
  cases w
  all_goals (revert sl; unfold Statement; decide +kernel)

theorem xld (sl : Slot) : Statement (.xld sl) := by
  revert sl; unfold Statement; decide +kernel

theorem xst (sl : Slot) : Statement (.xst sl) := by
  revert sl; unfold Statement; decide +kernel

theorem derive : Statement (.derive) := by
  unfold Statement; decide +kernel

theorem sign : Statement (.sign) := by
  unfold Statement; decide +kernel

theorem signp : Statement (.signp) := by
  unfold Statement; decide +kernel

theorem verify : Statement (.verify) := by
  unfold Statement; decide +kernel

theorem clr : Statement (.clr) := by
  unfold Statement; decide +kernel

end Sys2Proof.Laws.EncodedRow
end

