-- ==== Sys2Proof/Laws/Step.lean ====
section
/-!
SUPPORT. Whose turn it is and what a step does, said once; the proofs cite these instead of unfolding `step`.
-/

namespace Sys2Proof.Machine

/-! ### Turns (20_memory.md R66, R68) -/

/-- The unit's turn: a word is latched and the completion step is due. -/
theorem turn_eq_unit {s : State} {w : Word} (hc : s.cmd = some w) (hd : CompletionDue s) : s.turn = .unit w := by
  unfold State.turn
  rcases hi : s.inputs with _ | ⟨e, rest⟩
  · simp [hc]
  · rcases hd with h | h | ⟨a, rest', h, hne⟩
    · simp [hi] at h
    · cases e <;> simp [hc, h]
    · rw [hi] at h
      obtain ⟨rfl, -⟩ := List.cons.inj h
      have : a.isStatusRead = false := by
        rw [← Bool.not_eq_true, isStatusRead_iff]
        exact hne
      cases s.busyLeft <;> simp [hc, this]

/-- Everything a turn can be. -/
theorem turn_cases (s : State) :
    (s.cmd = none ∧ s.inputs = [] ∧ s.turn = .idle) ∨
    (∃ e rest, s.inputs = e :: rest ∧ s.turn = .host e ∧
      (s.cmd = none ∨ (∃ n, s.busyLeft = n + 1 ∧ (e = .reset ∨ e = .access (.read 32 4))))) ∨
    (∃ w, s.cmd = some w ∧ s.turn = .unit w ∧ CompletionDue s) := by
  unfold State.turn
  rcases hc : s.cmd with _ | w
  · rcases hi : s.inputs with _ | ⟨e, rest⟩
    · exact .inl ⟨rfl, rfl, rfl⟩
    · exact .inr (.inl ⟨e, rest, rfl, rfl, .inl rfl⟩)
  · rcases hi : s.inputs with _ | ⟨e, rest⟩
    · exact .inr (.inr ⟨w, rfl, rfl, .inl hi⟩)
    · rcases hb : s.busyLeft with _ | n
      · exact .inr (.inr ⟨w, rfl, rfl, .inr (.inl hb)⟩)
      · cases e with
        | reset => exact .inr (.inl ⟨.reset, rest, rfl, rfl, .inr ⟨n, rfl, .inl rfl⟩⟩)
        | access a =>
          by_cases ha : a.isStatusRead = true
          · have := (isStatusRead_iff a).1 ha
            subst this
            exact .inr (.inl ⟨_, rest, rfl, rfl, .inr ⟨n, rfl, .inr rfl⟩⟩)
          · refine .inr (.inr ⟨w, rfl, by simp [ha], .inr (.inr ⟨a, rest, hi, ?_⟩)⟩)
            exact fun h => ha ((isStatusRead_iff a).2 h)

/-! ### Steps -/

theorem step_of_idle {s : State} (h : s.turn = .idle) : step s = .next s := by
  simp only [step, h]

theorem step_of_host {s : State} {e : HostEvent} (h : s.turn = .host e) : step s = .next (s.takeEvent e) := by
  simp only [step, h]

theorem step_of_unit_ok {s : State} {w : Word} {i : Instr} (h : s.turn = .unit w) (hw : decode w = .ok i) :
    step s = exec i s := by
  simp only [step, h, hw]

theorem step_of_unit_error {s : State} {w : Word} {e : DecodeError} (h : s.turn = .unit w) (hw : decode w = .error e) :
    step s = .next s.illegal := by
  simp only [step, h, hw]

/-- A decoded command is well formed. -/
theorem decode_wf {w : Word} {i : Instr} (h : decode w = .ok i) : i.wf = true := by
  unfold decode at h
  split at h
  · cases h
  · split at h
    · split at h
      · cases h; assumption
      · cases h
    · cases h

/-! ### Host events -/

/-- Taking an access, by the case it falls in (R64, R65, R70). -/
theorem takeEvent_access (s : State) (a : HostAccess) :
    s.takeEvent (.access a) =
      ({ s with inputs := s.inputs.tail, busyLeft := if s.busy then s.busyLeft - 1 else s.busyLeft } : State).serve a := rfl

theorem serve_read_ok (s : State) {width off : Nat} (h : accessOk width off = true) :
    s.serve (.read width off) = s.reply (.data (s.hostRead32 off)) := by
  simp [State.serve, h]

theorem serve_write_ok (s : State) {width off : Nat} (v : Word) (h : accessOk width off = true) :
    s.serve (.write width off v) = (s.hostWrite32 off v).reply .ok := by
  simp [State.serve, h]

theorem serve_error (s : State) (a : HostAccess)
    (h : (∃ width off, a = .read width off ∧ accessOk width off = false) ∨
      (∃ width off v, a = .write width off v ∧ accessOk width off = false)) :
    s.serve a = s.reply .hostErr := by
  rcases h with ⟨width, off, rfl, h⟩ | ⟨width, off, v, rfl, h⟩ <;> simp [State.serve, h]

end Sys2Proof.Machine
end

