-- ==== Sys2Proof/Tests/Slice0.lean ====
section
/-!
SUPPORT. Tests. Every expected value is a vector of spec/95_test_vectors.md, named in the docstring or the section heading, or an
example of a command rule. A last part shows, for each obligation with hypotheses, a concrete state and operands that meet
them (names `witness_<Obligation>`).
-/

namespace Sys2Proof.Tests

/- Many theorems here wait for the kernel at once; elaborated in order they need no thread each. -/
set_option Elab.async false

open Sys2Proof Sys2Proof.Machine

/-! ### WellFormed refuses what it checks (30_encoding.md R96 e, f) -/

theorem test_wf_refuses_one_register_as_both_roots : Instr.wf (.fsqrt 2 2 0) = false := by decide

theorem test_wf_refuses_one_register_as_both_coordinates : Instr.wf (.paff 0 0 1) = false := by decide

theorem test_wf_refuses_wide_scalar_load_from_the_last_slot : Instr.wf (.kld 3 .wide) = false := by decide

theorem test_wf_refuses_wide_scalar_store_to_the_last_slot : Instr.wf (.kst 3 .wide) = false := by decide

theorem test_wf_refuses_key_load_from_the_last_slot : Instr.wf (.xld 3) = false := by decide

theorem test_wf_refuses_key_store_to_the_last_slot : Instr.wf (.xst 3) = false := by decide

theorem test_wf_admits_the_legal_neighbours :
    (Instr.wf (.fsqrt 7 6 0) && Instr.wf (.kld 2 .wide) && Instr.wf (.kld 3 .narrow) && Instr.wf (.xld 2)) = true := by decide

/-! ### Decoding words written out from the spec -/

/-- Examples of 40_field.md and words of 95_test_vectors.md sections 3.1 to 3.4. -/
theorem test_decode_field_words :
    decode 0x10765000 = .ok (.fadd 7 6 5) ∧ decode 0x11010000 = .ok (.fsub 0 1 0) ∧ decode 0x12100000 = .ok (.fneg 1 0) ∧
    decode 0x13201000 = .ok (.fmul 2 0 1) ∧ decode 0x14100000 = .ok (.fsqr 1 0) ∧ decode 0x15100000 = .ok (.finv 1 0) ∧
    decode 0x16100000 = .ok (.fexp 1 0) ∧ decode 0x17200300 = .ok (.fsqrt 2 3 0) ∧ decode 0x18033000 = .ok (.feq 3 3) ∧
    decode 0x19070000 = .ok (.fpar 7) ∧ decode 0x1A700000 = .ok (.fmov 7 0) ∧ decode 0x1B400003 = .ok (.fldc 4 .sqrtm1) := by
  decide +kernel

/-- Examples of 41_point.md and words of sections 3.5 to 3.8. -/
theorem test_decode_point_words :
    decode 0x20210000 = .ok (.padd 2 1 0) ∧ decode 0x21100000 = .ok (.pdbl 1 0) ∧ decode 0x22100000 = .ok (.pneg 1 0) ∧
    decode 0x23001000 = .ok (.peq 0 1) ∧ decode 0x24300000 = .ok (.pmov 3 0) ∧ decode 0x25300001 = .ok (.pldc 3 .base) ∧
    decode 0x26000100 = .ok (.paff 0 1 0) ∧ decode 0x27001000 = .ok (.pfaf 0 0 1) ∧ decode 0x28100002 = .ok (.pdec 1 2) ∧
    decode 0x29010001 = .ok (.penc 1 1) ∧ decode 0x2A100001 = .ok (.smul 1 0 .wide) ∧
    decode 0x2A330001 = .ok (.smul 3 3 .wide) := by
  decide +kernel

/-- Examples of 42_transfer.md and words of section 3.9. -/
theorem test_decode_transfer_words :
    decode 0x1C000001 = .ok (.fld 0 1) ∧ decode 0x1D010000 = .ok (.fst 1 0) ∧ decode 0x30000003 = .ok (.kld 3 .narrow) ∧
    decode 0x30000012 = .ok (.kld 2 .wide) ∧ decode 0x31000012 = .ok (.kst 2 .wide) ∧ decode 0x32000002 = .ok (.xld 2) ∧
    decode 0x33000000 = .ok (.xst 0) := by
  decide +kernel

/-- The words of 43_sequencer.md. -/
theorem test_decode_sequencer_words :
    decode 0x40000000 = .ok .derive ∧ decode 0x41000000 = .ok .sign ∧ decode 0x42000000 = .ok .signp ∧
    decode 0x43000000 = .ok .verify ∧ decode 0x44000000 = .ok .clr := by
  decide +kernel

/-- V-ILL-1 to V-ILL-46 (section 3.11). -/
theorem test_illegal_words_do_not_decode :
    ([0x00000000, 0xFFFFFFFF, 0x0F000000, 0x1E000000, 0x2B000000, 0x34000000, 0x45000000, 0x10800000, 0x10080000, 0x10008000]
      ++ [0x10000100, 0x10000001, 0x12001000, 0x17200200, 0x17000000, 0x18100000, 0x19001000, 0x1B000004, 0x1C000004]
      ++ [0x1D100000, 0x1D000080, 0x20400000, 0x20000100, 0x21040000, 0x25000002, 0x26000000, 0x26040100, 0x26800100]
      ++ [0x27400000, 0x27080000, 0x28000004, 0x29100000, 0x2A000002, 0x2A001000, 0x30000013, 0x30000004, 0x30000020]
      ++ [0x30100000, 0x31000013, 0x32000003, 0x32000010, 0x33000003, 0x40000001, 0x41100000, 0x43000100, 0x44000080] :
        List Word).all (fun w => (decode w).toOption.isNone) = true := by
  decide +kernel

/-! ### Helpers: small states, one step -/

/-- The command word `w` is latched and completes; the check is made on the state after. -/
def after (w : Nat) (s : State) (check : State → Bool) : Bool :=
  match step (s.withFetchWord 32 w) with
  | .next t => check t
  | .fault _ => false
  | .refused _ => false

/-- The oldest host event is taken; the check is made on the state after. -/
def served (e : HostEvent) (s : State) (check : State → Bool) : Bool :=
  match step { s with inputs := [e] } with
  | .next t => check t
  | .fault _ => false
  | .refused _ => false

/-- `F[i]` holds the integer `n`. -/
def withF (i : FReg) (n : Nat) (s : State) : State := s.writeF i (Fe.ofNat n)

/-- `P[i]` holds the point. -/
def withP (i : PReg) (v : Point) (s : State) : State := s.writeP i v

/-- `K` holds the integer `n`. -/
def withK (n : Nat) (s : State) : State := s.writeK n

/-- 32 bytes written as the spec writes them, byte 0 first. -/
def hex32 (n : Nat) : List Byte := (leBytes 32 n).reverse

/-- The slot holds the 32 bytes. -/
def withSlot (sl : Slot) (n : Nat) (s : State) : State := s.writeSlot sl (hex32 n)

/-- The point of order 4 of section 3.5: (SQRTM1, 0). -/
def pointT4 : Point := ⟨sqrtm1, Fe.ofNat 0, Fe.ofNat 0, Fe.ofNat 1⟩

/-- The point of order 2 of section 3.5: (0, p - 1). -/
def pointO2 : Point := ⟨Fe.ofNat 0, Fe.ofNat (primeP - 1), Fe.ofNat 0, Fe.ofNat 1⟩

/-- PENC of a register gives these 32 bytes. -/
def encodes (t : State) (i : PReg) (n : Nat) : Bool := penc (t.readP i) = hex32 n

/-! ### Field unit (sections 3.1 to 3.4) -/

/-- V-FADD-1. -/
theorem test_fadd_wraps_at_p : after 0x10201000 (withF 0 (primeP - 1) (withF 1 1 State.reset))
    (fun t => (t.readF 2).val = 0 && t.statusWord = 2) = true := by decide +kernel

/-- V-FADD-3. -/
theorem test_fadd_destination_is_both_sources : after 0x10000000 (withF 0 5 State.reset)
    (fun t => (t.readF 0).val = 10) = true := by decide +kernel

/-- V-FSUB-1. -/
theorem test_fsub_borrows : after 0x11201000 (withF 1 1 State.reset)
    (fun t => (t.readF 2).val = primeP - 1) = true := by decide +kernel

/-- V-FSUB-4. -/
theorem test_fsub_operand_order : after 0x11010000 (withF 0 (primeP - 1) (withF 1 1 State.reset))
    (fun t => (t.readF 0).val = 2) = true := by decide +kernel

/-- V-FNEG-1. -/
theorem test_fneg_of_zero : after 0x12100000 (withF 1 3 State.reset) (fun t => (t.readF 1).val = 0) = true := by decide +kernel

/-- V-FNEG-4. -/
theorem test_fneg_of_sqrtm1 :
    after 0x12100000 (withF 0 0x2b8324804fc1df0b2b4d00993dfbd7a72f431806ad2fe478c4ee1b274a0ea0b0 State.reset)
      (fun t => (t.readF 1).val = primeP - 0x2b8324804fc1df0b2b4d00993dfbd7a72f431806ad2fe478c4ee1b274a0ea0b0) = true := by
  decide +kernel

/-- V-FMUL-2. -/
theorem test_fmul_reduces_the_full_product : after 0x13201000 (withF 0 (2 ^ 128) (withF 1 (2 ^ 128) State.reset))
    (fun t => (t.readF 2).val = 38) = true := by decide +kernel

/-- V-FMUL-5. -/
theorem test_fmul_d_by_sqrtm1 :
    after 0x13201000 (withF 0 0x52036cee2b6ffe738cc740797779e89800700a4d4141d8ab75eb4dca135978a3
        (withF 1 0x2b8324804fc1df0b2b4d00993dfbd7a72f431806ad2fe478c4ee1b274a0ea0b0 State.reset))
      (fun t => (t.readF 2).val = 0x024aee07b32c1ab4f4c5ce99bbcb7c34498008497fbcc19e71c41b459e451edd) = true := by
  decide +kernel

/-- V-FSQR-1. -/
theorem test_fsqr_reduces : after 0x14100000 (withF 0 (2 ^ 128) State.reset) (fun t => (t.readF 1).val = 38) = true := by
  decide +kernel

/-- V-FSQR-5. -/
theorem test_fsqr_of_d :
    after 0x14100000 (withF 0 0x52036cee2b6ffe738cc740797779e89800700a4d4141d8ab75eb4dca135978a3 State.reset)
      (fun t => (t.readF 1).val = 0x7d6f8d574d4c1f28666b5422418f201bd37e5ec732a1caf01d83f63e6ba03e78) = true := by
  decide +kernel

/-- V-FINV-1. -/
theorem test_finv_of_zero : after 0x15100000 (withF 1 9 State.reset)
    (fun t => (t.readF 1).val = 0 && t.statusWord = 2) = true := by decide +kernel

/-- V-FINV-5. -/
theorem test_finv_of_d :
    after 0x15100000 (withF 0 0x52036cee2b6ffe738cc740797779e89800700a4d4141d8ab75eb4dca135978a3 State.reset)
      (fun t => (t.readF 1).val = 0x40907ed214d5ce432b162114cdb9cf660b5dd6984279542e25e0f276cdc9f843) = true := by
  decide +kernel

/-- V-FEXP-1. -/
theorem test_fexp_zero_to_the_zero : after 0x16100000 (withF 1 5 State.reset)
    (fun t => (t.readF 1).val = 1) = true := by decide +kernel

/-- V-FEXP-7. -/
theorem test_fexp_uses_bit_511 : after 0x16100000 (withF 0 2 (withK (2 ^ 511) State.reset))
    (fun t => (t.readF 1).val = 0x0000000000000000000000000000000000000000000000000000d65800000000) = true := by decide +kernel

/-- V-FSQRT-3. -/
theorem test_fsqrt_second_candidate : after 0x17200300 (withF 0 4 State.reset)
    (fun t => (t.readF 2).val = primeP - 2 && (t.readF 3).val = 2 && t.statusWord = 0xA) = true := by decide +kernel

/-- V-FSQRT-6. -/
theorem test_fsqrt_without_root_keeps_destinations : after 0x17200300 (withF 0 2 (withF 2 11 (withF 3 12 State.reset)))
    (fun t => (t.readF 2).val = 11 && (t.readF 3).val = 12 && t.statusWord = 2) = true := by decide +kernel

/-- V-FEQ-5. -/
theorem test_feq_does_not_cancel_limb_differences : after 0x18001000 (withF 0 1 (withF 1 (2 ^ 64) State.reset))
    (fun t => t.statusWord = 2) = true := by decide +kernel

/-- V-FEQ-6. -/
theorem test_feq_leaves_the_other_flags : after 0x18001000 (withF 1 (primeP - 1) { State.reset with valid := true, even := true })
    (fun t => t.statusWord = 0x2A) = true := by decide +kernel

/-- V-FPAR-3. -/
theorem test_fpar_of_minus_one : after 0x19000000 (withF 0 (primeP - 1) State.reset)
    (fun t => t.statusWord = 0x22) = true := by decide +kernel

/-- V-FPAR-2. -/
theorem test_fpar_of_one_clears : after 0x19000000 (withF 0 1 { State.reset with even := true })
    (fun t => t.statusWord = 2) = true := by decide +kernel

/-- V-FMOV-1. -/
theorem test_fmov_copies : after 0x1A700000 (withF 0 9 (withF 7 1 State.reset))
    (fun t => (t.readF 7).val = 9 && (t.readF 0).val = 9) = true := by decide +kernel

/-- V-FLDC-3. -/
theorem test_fldc_d : after 0x1B300002 (withF 3 77 State.reset)
    (fun t => (t.readF 3).val = 0x52036cee2b6ffe738cc740797779e89800700a4d4141d8ab75eb4dca135978a3) = true := by decide +kernel

/-- V-FLDC-4. -/
theorem test_fldc_sqrtm1 : after 0x1B400003 (withF 4 77 State.reset)
    (fun t => (t.readF 4).val = 0x2b8324804fc1df0b2b4d00993dfbd7a72f431806ad2fe478c4ee1b274a0ea0b0) = true := by decide +kernel

/-! ### Point unit (sections 3.5 to 3.8) -/

/-- V-PT-LDC-1. -/
theorem test_pldc_neutral : after 0x25000000 (withP 0 basePoint State.reset) (fun t => t.readP 0 = Point.neutral) = true := by
  decide +kernel

/-- V-PT-LDC-2. -/
theorem test_pldc_base : after 0x25300001 State.reset
    (fun t => encodes t 3 0x5866666666666666666666666666666666666666666666666666666666666666) = true := by decide +kernel

/-- V-PT-ADD-7. -/
theorem test_padd_gives_three_base : after 0x20210000 (withP 0 basePoint (withP 1 (pdbl basePoint) State.reset))
    (fun t => encodes t 2 0xd4b4f5784868c3020403246717ec169ff79e26608ea126a1ab69ee77d1b16712) = true := by decide +kernel

/-- V-PT-ADD-3: the point and its negative. -/
theorem test_padd_of_the_negative : after 0x20201000 (withP 0 basePoint (withP 1 (pneg basePoint) State.reset))
    (fun t => (t.readP 2).X.val = 0 && (t.readP 2).T.val = 0 &&
      (t.readP 2).Y.val = 0x59e4ea1a52a20ea2fd9cb81712f675b450b27bff31b598ba722d5b0bf61c8608 &&
      (t.readP 2).Z = (t.readP 2).Y) = true := by decide +kernel

/-- V-PT-DBL-1. -/
theorem test_pdbl_of_base : after 0x21100000 (withP 0 basePoint State.reset)
    (fun t => encodes t 1 0xc9a3f86aae465f0e56513864510f3997561fa2c9e85ea21dc2292309f3cd6022) = true := by decide +kernel

/-- V-PT-DBL-3. -/
theorem test_pdbl_of_order_two : after 0x21000000 (withP 0 pointO2 State.reset)
    (fun t => t.readP 0 = ⟨Fe.ofNat 0, Fe.ofNat (primeP - 1), Fe.ofNat 0, Fe.ofNat (primeP - 1)⟩) = true := by decide +kernel

/-- V-PT-NEG-1. -/
theorem test_pneg_of_base : after 0x22100000 (withP 0 basePoint State.reset)
    (fun t => encodes t 1 0x58666666666666666666666666666666666666666666666666666666666666e6) = true := by decide +kernel

/-- V-PT-NEG-3. -/
theorem test_pneg_of_order_four : after 0x22100000 (withP 0 pointT4 State.reset)
    (fun t => encodes t 1 0x0000000000000000000000000000000000000000000000000000000000000080) = true := by decide +kernel

/-- V-PT-MOV-1. -/
theorem test_pmov_copies : after 0x24300000 (withP 0 basePoint State.reset) (fun t => t.readP 3 = basePoint) = true := by
  decide +kernel

/-- V-PT-EQ-1. -/
theorem test_peq_of_two_representatives :
    after 0x23001000 (withP 0 (pdbl basePoint) (withP 1 (padd basePoint basePoint) State.reset))
      (fun t => t.statusWord = 0x12) = true := by decide +kernel

/-- V-PT-EQ-3. -/
theorem test_peq_compares_x : after 0x23001000 (withP 0 basePoint (withP 1 (pneg basePoint) State.reset))
    (fun t => t.statusWord = 2) = true := by decide +kernel

/-- V-PT-AFF-1. -/
theorem test_paff_of_two_base : after 0x26000100 (withP 0 (pdbl basePoint) State.reset)
    (fun t => (t.readF 0).val = 0x36ab384c9f5a046c3d043b7d1833e7ac080d8e4515d7a45f83c5a14e2843ce0e &&
      (t.readF 1).val = 0x2260cdf3092329c21da25ee8c9a21f5697390f51643851560e5f46ae6af8a3c9) = true := by decide +kernel

/-- V-PT-AFF-4. -/
theorem test_paff_of_order_four : after 0x26000100 (withP 0 pointT4 State.reset)
    (fun t => t.readF 0 = sqrtm1 && (t.readF 1).val = 0) = true := by decide +kernel

/-- V-PT-FAF-7. -/
theorem test_pfaf_of_minus_base :
    after 0x27001000 (withP 0 (pdbl basePoint) (withF 0 (primeP - baseX.val) (withF 1 baseY.val State.reset)))
      (fun t => (t.readP 0).T.val = 0x1878a0f02874899a9915b1719b541c82df0f607f88aead0a9221754c5a48224a &&
        (t.readP 0).Z.val = 1 && t.statusWord = 0xA) = true := by decide +kernel

/-- V-PT-FAF-6. -/
theorem test_pfaf_off_the_curve :
    after 0x27001000 (withP 0 (pdbl basePoint) (withF 0 baseX.val
        (withF 1 0x6666666666666666666666666666666666666666666666666666666666666659 State.reset)))
      (fun t => t.readP 0 = pdbl basePoint && t.statusWord = 2) = true := by decide +kernel

/-- V-PT-DEC-13. -/
theorem test_pdec_of_y_three :
    after 0x28100002 (withSlot 2 0x0300000000000000000000000000000000000000000000000000000000000000 State.reset)
      (fun t => (t.readP 1).X.val = 0x68febfd42613608ef448af58b1ef28311c0d964bdd30bc07fef6e61f01ae05e2 &&
        (t.readP 1).Y.val = 3 && (t.readP 1).Z.val = 1 && t.statusWord = 0xA) = true := by decide +kernel

/-- V-PT-DEC-4. -/
theorem test_pdec_of_negative_zero :
    after 0x28100002 (withP 1 basePoint
        (withSlot 2 0x0100000000000000000000000000000000000000000000000000000000000080 State.reset))
      (fun t => t.readP 1 = basePoint && t.statusWord = 2) = true := by decide +kernel

/-- V-PT-ENC-2. -/
theorem test_penc_sets_the_sign_bit : after 0x29000001 (withP 0 (pneg basePoint) State.reset)
    (fun t => t.readSlot 1 = hex32 0x58666666666666666666666666666666666666666666666666666666666666e6) = true := by
  decide +kernel

/-- V-PT-ENC-4. -/
theorem test_penc_divides_by_z : after 0x29000001 (withP 0 (pdbl Point.neutral) State.reset)
    (fun t => t.readSlot 1 = hex32 0x0100000000000000000000000000000000000000000000000000000000000000) = true := by
  decide +kernel

/-- V-SMUL-4. -/
theorem test_smul_ignores_the_high_half : after 0x2A100000 (withP 0 basePoint (withK (2 ^ 256 + 3) State.reset))
    (fun t => encodes t 1 0xd4b4f5784868c3020403246717ec169ff79e26608ea126a1ab69ee77d1b16712 &&
      t.k.toNat = 2 ^ 256 + 3) = true := by decide +kernel

/-- V-SMUL-9. -/
theorem test_smul_wide_uses_all_bits : after 0x2A100001 (withP 0 basePoint (withK (2 ^ 256 + 3) State.reset))
    (fun t => encodes t 1 0x4bc8a188e663cd69a96bd5a56f45e6ae8ceb8b4e8e3c6da8afc79800dda1030a) = true := by decide +kernel

/-! ### Transfers (section 3.9) -/

/-- V-FLD-3. -/
theorem test_fld_reduces :
    after 0x1C000001 (withSlot 1 0xffffffffffffffffffffffffffffffffffffffffffffffffffffffffffffffff State.reset)
      (fun t => (t.readF 0).val = 37) = true := by decide +kernel

/-- V-FLD-7. -/
theorem test_fld_byte_order :
    after 0x1C000001 (withSlot 1 0x201f1e1d1c1b1a191817161514131211100f0e0d0c0b0a090807060504030201 State.reset)
      (fun t => (t.readF 0).val = 0x0102030405060708090a0b0c0d0e0f101112131415161718191a1b1c1d1e1f20) = true := by
  decide +kernel

/-- V-FST-1. -/
theorem test_fst_of_minus_one : after 0x1D010000 (withF 1 (primeP - 1) State.reset)
    (fun t => t.readSlot 0 = hex32 0xecffffffffffffffffffffffffffffffffffffffffffffffffffffffffffff7f) = true := by
  decide +kernel

/-- V-KLD-1. -/
theorem test_kld_zero_extends :
    after 0x30000000 (withK (2 ^ 512 - 1)
        (withSlot 0 0x0102030405060708090a0b0c0d0e0f101112131415161718191a1b1c1d1e1f20 State.reset))
      (fun t => t.k.toNat = 0x201f1e1d1c1b1a191817161514131211100f0e0d0c0b0a090807060504030201) = true := by decide +kernel

/-- V-KLD-3. -/
theorem test_kld_wide :
    after 0x30000012 (withSlot 2 0x0102030405060708090a0b0c0d0e0f101112131415161718191a1b1c1d1e1f20
        (withSlot 3 0x8182838485868788898a8b8c8d8e8f909192939495969798999a9b9c9d9e9fa0 State.reset))
      (fun t => t.k.toNat = 0xa09f9e9d9c9b9a999897969594939291908f8e8d8c8b8a898887868584838281 * 2 ^ 256 +
        0x201f1e1d1c1b1a191817161514131211100f0e0d0c0b0a090807060504030201) = true := by decide +kernel

/-- V-KST-1. -/
theorem test_kst_drops_the_high_half : after 0x31000002 (withK (2 ^ 256 + 7) (withSlot 3 0xbb State.reset))
    (fun t => t.readSlot 2 = hex32 0x0700000000000000000000000000000000000000000000000000000000000000 &&
      t.readSlot 3 = hex32 0xbb) = true := by decide +kernel

/-- V-KST-2. -/
theorem test_kst_wide : after 0x31000012 (withK (2 ^ 256 + 7) State.reset)
    (fun t => t.readSlot 2 = hex32 0x0700000000000000000000000000000000000000000000000000000000000000 &&
      t.readSlot 3 = hex32 0x0100000000000000000000000000000000000000000000000000000000000000) = true := by decide +kernel

/-- V-XLD-1. -/
theorem test_xld_does_not_clamp :
    after 0x32000001 (withSlot 1 0x0102030405060708090a0b0c0d0e0f101112131415161718191a1b1c1d1e1f20
        (withSlot 2 0x8182838485868788898a8b8c8d8e8f909192939495969798999a9b9c9d9e9fa0 State.reset))
      (fun t => t.xskScalar = hex32 0x0102030405060708090a0b0c0d0e0f101112131415161718191a1b1c1d1e1f20 &&
        t.xskNonceKey = hex32 0x8182838485868788898a8b8c8d8e8f909192939495969798999a9b9c9d9e9fa0) = true := by decide +kernel

/-- V-XST-1. -/
theorem test_xst_stores_both_halves :
    after 0x33000000 (State.reset.writeXsk (bytes64 (hex32 0x0102030405060708090a0b0c0d0e0f101112131415161718191a1b1c1d1e1f20 ++
        hex32 0x8182838485868788898a8b8c8d8e8f909192939495969798999a9b9c9d9e9fa0)))
      (fun t => t.readSlot 0 = hex32 0x0102030405060708090a0b0c0d0e0f101112131415161718191a1b1c1d1e1f20 &&
        t.readSlot 1 = hex32 0x8182838485868788898a8b8c8d8e8f909192939495969798999a9b9c9d9e9fa0 &&
        t.readSlot 2 = hex32 0) = true := by decide +kernel

/-! ### Sequencer (section 3.10): the parts no hash output enters -/

/-- V-SEQ-1: what the scrub leaves, the slots DERIVE does not write, and the one hash request. -/
theorem test_derive_scrubs_and_asks_once :
    after 0x40000000 (withF 3 5 (withP 1 basePoint (withK 9 { State.reset with valid := true, eq := true, even := true })))
      (fun t => (t.readF 3).val = 0 && t.readP 1 = Point.neutral && t.k = 0 && t.statusWord = 2 &&
        t.hashSent = [List.replicate 32 0]) = true := by decide +kernel

/-- `clamp` (43_sequencer.md R223): bits 0 to 2 of byte 0 and bit 255 are cleared, bit 254 is set. -/
theorem test_clamp_sets_and_clears :
    clamp (hex32 0xff000000000000000000000000000000000000000000000000000000000000ff) =
      hex32 0xf80000000000000000000000000000000000000000000000000000000000007f := by decide +kernel

/-- One step from `withFetchWord` is the completion step of the word. -/
theorem after_eq {w : Nat} {s : State} {i : Instr} {t : State} {check : State → Bool}
    (hd : decode (BitVec.ofNat 32 (w % 2 ^ 32)) = .ok i) (ht : exec i (s.withFetchWord 32 w) = .next t) :
    after w s check = check t := by
  have hs : step (s.withFetchWord 32 w) = .next t := by
    rw [step_of_unit_ok (turn_eq_unit rfl (.inr (.inl rfl))) hd, ht]
  simp only [after, hs]

/-- V-SRC-1: SIGN of the empty message completes with ERR = 0 and makes three hash requests, of 32, 32 and 64 bytes. -/
theorem test_sign_completes : after 0x41000000 State.reset
    (fun t => t.statusWord = 2 && t.hashSent.map List.length = [32, 32, 64]) = true := by
  have hl : (State.reset.withFetchWord 32 0x41000000).lengthOk = true := by
    simp [State.lengthOk, State.withFetchWord, State.reset]
  rw [after_eq (by decide +kernel : _ = Except.ok Instr.sign) (by simp only [exec, execSign, hl, if_true]; rfl)]
  decide +kernel

/-- V-SEQ-5: a length above MSG_MAX (here the largest of all, which exceeds every MSG_MAX) gives STATUS 0x50A and nothing else. -/
theorem test_signp_bad_length : after 0x42000000 (withF 1 5 { State.reset with valid := true, msglen := 0xFFFFFFFF })
    (fun t => t.statusWord = 0x50A && (t.readF 1).val = 5) = true := by
  have hl : ((withF 1 5 { State.reset with valid := true, msglen := 0xFFFFFFFF }).withFetchWord 32 0x42000000).lengthOk =
      false := by
    have := msgMax_le
    have hx : (0xFFFFFFFF : Word).toNat = 2 ^ 32 - 1 := by decide
    simp only [State.lengthOk, withF, State.writeF, State.withFetchWord, decide_eq_false_iff_not, hx]
    omega
  rw [after_eq (by decide +kernel : _ = Except.ok Instr.signp)
    (by simp only [exec, execSignp, hl, Bool.false_eq_true, if_false]; rfl)]
  decide +kernel

/-- V-VER-4: R = y = 2 does not decode. -/
theorem test_verify_bad_signature : after 0x43000000
    (withSlot 0 0x0200000000000000000000000000000000000000000000000000000000000000 State.reset)
    (fun t => t.statusWord = 0x102 && t.hashSent = []) = true := by decide +kernel

/-- V-VER-7: R is checked before the public key. -/
theorem test_verify_checks_r_first : after 0x43000000
    (withSlot 0 0x0200000000000000000000000000000000000000000000000000000000000000
      (withSlot 2 0x0200000000000000000000000000000000000000000000000000000000000000 State.reset))
    (fun t => t.statusWord = 0x102) = true := by decide +kernel

/-- V-SEQ-6: ILL survives CLR. -/
theorem test_clr_keeps_ill : after 0x44000000 (withF 2 5 (withSlot 3 0x72 { State.reset with ill := true, msglen := 1 }))
    (fun t => t.statusWord = 6 && (t.readF 2).val = 0 && t.mem = [] && t.msglen = 0) = true := by decide +kernel

/-- V-ILL-47. -/
theorem test_illegal_word_keeps_the_flags : after 0x10800000 (withF 0 5 { State.reset with valid := true, eq := true })
    (fun t => t.statusWord = 0x41E && (t.readF 0).val = 5) = true := by decide +kernel

/-! ### Host window (section 3.12) -/

/-- V-HOST-2. -/
theorem test_host_write_io : served (.access (.write 32 0x080 0x04030201)) State.reset
    (fun t => t.mem = [(0x080, 1), (0x081, 2), (0x082, 3), (0x083, 4)] && t.replies = [.ok]) = true := by decide +kernel

/-- V-HOST-3. -/
theorem test_host_read_io :
    served (.access (.read 32 0x080)) { State.reset with mem := [(0x080, 1), (0x081, 2), (0x082, 3), (0x083, 4)] }
      (fun t => t.replies = [.data 0x04030201]) = true := by decide +kernel

/-- V-HOST-4: the CMD write latches the word, and STATUS then reads 1. -/
theorem test_host_write_cmd : served (.access (.write 32 0x000 0x1C000000)) State.reset
    (fun t => t.cmd = some 0x1C000000 && t.statusWord = 1) = true := by decide +kernel

/-- V-HOST-5. -/
theorem test_host_status_while_busy :
    served (.access (.read 32 0x004)) { State.reset with cmd := some 0x1C000000, busyLeft := 1, ill := true }
      (fun t => t.replies = [.data 1] && t.cmd = some 0x1C000000) = true := by decide +kernel

/-- V-HOST-26: any other access is held until the completion step has run. -/
theorem test_host_access_is_held :
    served (.access (.read 32 0x080)) { State.reset with cmd := some 0x1C000000, busyLeft := 1 }
      (fun t => t.replies = [] && t.inputs = [.access (.read 32 0x080)] && t.cmd = none && t.done) = true := by decide +kernel

/-- V-HOST-17 to V-HOST-22 and V-HOST-24. -/
theorem test_host_access_errors :
    ([.read 32 0x00C, .read 32 0x07C, .write 32 0x100 0, .read 32 0xFFC, .read 32 0x082, .read 16 0x080, .read 64 0x080] :
      List HostAccess).all (fun a => served (.access a) State.reset (fun t => t = { State.reset with replies := [.hostErr] }))
      = true := by decide +kernel

/-! ### Witnesses: states and operands that meet the hypotheses of the obligations -/

/-- The neutral stands for (0, 1). -/
theorem represents_neutral : Represents Point.neutral 0 1 where
  z_ne := fun h => absurd (toZ_eq_zero.1 h) (by decide +kernel)
  x_eq := by simp [Point.neutral]
  y_eq := by simp [Point.neutral]
  t_eq := by simp [Point.neutral]
  curve := by simp [CurveEq]

/-- BASE stands for (Bx, By). -/
theorem represents_base : Represents basePoint (Fe.toZ baseX) (Fe.toZ baseY) where
  z_ne := fun h => absurd (toZ_eq_zero.1 h) (by decide +kernel)
  x_eq := by simp [basePoint]
  y_eq := by simp [basePoint]
  t_eq := by
    have h : baseT = fmul baseX baseY := by decide +kernel
    simp [basePoint, h]
  curve := by
    have h : fadd (fneg (fsqr baseX)) (fsqr baseY) =
        fadd (Fe.ofNat 1) (fmul (fmul curveD (fsqr baseX)) (fsqr baseY)) := by decide +kernel
    have := congrArg Fe.toZ h
    simpa [CurveEq] using this

/-- The other tuple of the neutral, (0, p - 1, 0, p - 1) (V-PT-DBL-2). -/
theorem represents_doubled_neutral : Represents (pdbl Point.neutral) 0 1 where
  z_ne := fun h => absurd (toZ_eq_zero.1 h) (by decide +kernel)
  x_eq := by simp [toZ_pdbl_X, Point.neutral]
  y_eq := by simp [toZ_pdbl_Y, toZ_pdbl_Z, Point.neutral]; norm_num
  t_eq := by simp [toZ_pdbl_T, Point.neutral]
  curve := by simp [CurveEq]

/-- A state with a latched word, the busy interval over. -/
def latched (w : Word) : State := { State.reset with cmd := some w }

theorem witness_DecodeOfEncodeIsTheCommand :
    Instr.wf (.fsqrt 7 6 0) = true ∧ Instr.wf (.kst 2 .wide) = true ∧ Instr.wf .clr = true := by decide

theorem witness_EncodeOfDecodeIsTheWord : decode 0x17700600 = .ok (.fsqrt 7 6 0) := by decide +kernel

/-- Fields at the edges of their ranges, and each just past its range. -/
theorem witness_WordIsLegalExactlyWhenItsFieldsFit :
    FormatAdmits (WordFields.of 0x10777000) ∧ FormatAdmits (WordFields.of 0x30000012) ∧
    ¬FormatAdmits (WordFields.of 0x30000013) ∧
    (latched 0x10800000).cmd = some 0x10800000 ∧ CompletionDue (latched 0x10800000) ∧
    ¬FormatAdmits (WordFields.of 0x10800000) := by
  refine ⟨?_, ?_, ?_, rfl, .inl rfl, ?_⟩ <;> simp [FormatAdmits, WordFields.of]

/-- Each of the three ways the completion step can be due. -/
theorem witness_StepRunsTheDecodedCommand :
    ((latched 0x43000000).cmd = some 0x43000000 ∧ CompletionDue (latched 0x43000000)) ∧
    CompletionDue { latched 0x43000000 with inputs := [.access (.read 32 4)] } ∧
    CompletionDue { latched 0x43000000 with busyLeft := 5, inputs := [.access (.read 32 0)] } ∧
    decode 0x43000000 = .ok .verify ∧ decodeTableWord 32 0x43000000 = some .verify := by
  refine ⟨⟨rfl, .inl rfl⟩, .inr (.inl rfl), .inr (.inr ⟨_, _, rfl, by simp⟩), ?_, ?_⟩ <;> decide +kernel

theorem witness_IllegalWordSetsStickyIll :
    ((latched 0).cmd = some 0 ∧ CompletionDue (latched 0) ∧ decode 0 = .error (.unknownOpcode 0)) ∧
    (∃ t, step { State.reset with ill := true } = .next t ∧ t.ill = true) ∧
    (Instr.wf .clr = true ∧ ∃ t, exec .clr { State.reset with ill := true } = .next t ∧ t.err = .ok) :=
  ⟨⟨rfl, .inl rfl, by decide +kernel⟩, ⟨_, rfl, rfl⟩, by decide, _, rfl, rfl⟩

/-- Two STATUS reads before the completion, and a reset in between. -/
theorem witness_LatchedCommandCompletes :
    ({ latched 0x43000000 with busyLeft := 2, inputs := [.access (.read 32 4), .access (.read 32 4)] } : State).cmd =
      some 0x43000000 ∧
    HostEvent.reset ∉ [HostEvent.access (.read 32 4), .access (.read 32 4)] ∧
    ({ latched 0x43000000 with busyLeft := 1, inputs := [.access (.read 32 4), .reset] } : State).cmd = some 0x43000000 := by
  decide

/-- One state for each of the three alternatives. -/
theorem witness_BusyWindowAnswersOnlyStatusReads :
    (∃ t, step { latched 0x1C000000 with busyLeft := 1, inputs := [.access (.read 32 4)] } = .next t ∧ t.replies = [.data 1]) ∧
    (∃ t, step { latched 0x1C000000 with busyLeft := 1, inputs := [.reset] } = .next t ∧ t.cmd = none ∧ t.done = false) ∧
    (∃ t, step { latched 0x44000000 with busyLeft := 1, inputs := [.access (.write 32 0 7)] } = .next t ∧ t.done = true) := by
  refine ⟨⟨_, rfl, by decide +kernel⟩, ⟨_, rfl, rfl, rfl⟩, ?_⟩
  rw [step_of_unit_ok (turn_eq_unit rfl (.inr (.inr ⟨_, _, rfl, by simp⟩))) (by decide +kernel : _ = Except.ok Instr.clr)]
  exact ⟨_, rfl, rfl⟩

/-- The first and the last word of every mapped row (of MSG, for every MSG_MAX that is not 0). -/
theorem witness_HostReadReturnsTheMappedData :
    (State.reset.cmd = none ∧ MappedOffset 0 ∧ MappedOffset 4 ∧ MappedOffset 8 ∧ MappedOffset 0x080 ∧ MappedOffset 0x0FC) ∧
    (0 < Config.msgMax → MappedOffset 0x1000 ∧ MappedOffset (0x1000 + Config.msgMax - 4)) := by
  have := msgMax_mod
  refine ⟨⟨rfl, by simp [MappedOffset]⟩, fun h => ⟨⟨rfl, ?_⟩, ?_, ?_⟩⟩ <;> omega

theorem witness_HostWriteChangesTheMappedLocation :
    Memory.wf State.reset.mem ∧ State.reset.cmd = none ∧
    ({ State.reset with inputs := [.access (.write 32 0x0FC 7)] } : State).inputs = .access (.write 32 0x0FC 7) :: [] ∧
    MappedOffset 0x0FC ∧ MappedOffset 8 ∧ MappedOffset 4 ∧ MappedOffset 0 := by
  exact ⟨Memory.wf_nil, rfl, rfl, by simp [MappedOffset]⟩

/-- The edges of every unmapped row, a misaligned offset and the other widths. -/
theorem witness_AccessErrorChangesNoState :
    AccessError (.read 32 0x00C) ∧ AccessError (.read 32 0x07C) ∧ AccessError (.write 32 0x100 0) ∧
    AccessError (.read 32 0xFFC) ∧ AccessError (.read 32 (0x1000 + Config.msgMax)) ∧ AccessError (.read 32 0x082) ∧
    AccessError (.read 16 0x080) ∧ AccessError (.write 8 0x1000 0) ∧ AccessError (.read 64 4) ∧
    State.reset.cmd = none ∧ (latched 7).cmd = some 7 := by
  simp [AccessError, HostAccess.width, HostAccess.off, latched, State.reset]

theorem witness_ResetInputRestoresTheResetState :
    (({ State.reset with inputs := [.reset] } : State).inputs = .reset :: [] ∧ State.reset.cmd = none) ∧
    0 < ({ latched 7 with busyLeft := 1, inputs := [.reset] } : State).busyLeft := by decide

theorem witness_StatusWordHoldsItsFields : (latched 7).cmd ≠ none ∧ State.reset.cmd = none := by decide

theorem witness_HostAccessesDoNotReachTheDatapath :
    ∃ s s' : State, s.cmd = none ∧ s.inputs = .access (.read 32 0x080) :: [] ∧
      s' = { s with f := s'.f, p := s'.p, k := s'.k, xsk := s'.xsk } ∧ s ≠ s' ∧ (∃ t, step s = .next t) ∧
      ∃ t, step s' = .next t := by
  refine ⟨{ State.reset with inputs := [.access (.read 32 0x080)] },
    { State.reset with inputs := [.access (.read 32 0x080)], k := 1 }, rfl, rfl, rfl, ?_, ⟨_, rfl⟩, _, rfl⟩
  intro h
  exact absurd (congrArg State.k h) (by decide +kernel)

/-- A radicand whose first candidate passes (9), one whose second does (4), and one without root (2); V-FSQRT-4, 3, 6. -/
theorem witness_SquareRootResult :
    (2 : FReg) ≠ 3 ∧ feq (fsqr (fexp (Fe.ofNat 9) ((primeP + 3) / 8))) (Fe.ofNat 9) = true ∧
    feq (fsqr (fexp (Fe.ofNat 4) ((primeP + 3) / 8))) (Fe.ofNat 4) = false ∧ (fsqrt (Fe.ofNat 4)).isSome = true ∧
    fsqrt (Fe.ofNat 2) = none := by decide +kernel

theorem witness_FieldNegationResult : ((withF 0 1 State.reset).readF 0).val ≠ 0 := by decide +kernel

theorem witness_FieldInversionResult :
    ((withF 0 2 State.reset).readF 0).val ≠ 0 ∧ (State.reset.readF 0).val = 0 := by decide +kernel

theorem witness_FieldExponentiationResult : State.reset.k = 0 := rfl

/-- Five limbs of 51 bits, and the whole as one limb. -/
theorem witness_FieldComparisonAndParityResult : 255 ≤ 51 * 5 ∧ 255 ≤ 255 * 1 := by decide

theorem witness_PointDoublingFormula : ValidPoint ((withP 0 basePoint State.reset).readP 0) :=
  ⟨_, _, represents_base⟩

theorem witness_PointEqualityComparesAffinePoints :
    (State.reset.readP 0).Z.val ≠ 0 ∧ ((withP 1 (pdbl basePoint) State.reset).readP 1).Z.val ≠ 0 := by decide +kernel

/-- A point with Z ≠ 0, and the tuple no run reaches. -/
theorem witness_PointToAffineResult :
    (0 : FReg) ≠ 1 ∧ ((withP 0 basePoint State.reset).readP 0).Z.val ≠ 0 ∧
    ((withP 0 ⟨Fe.ofNat 1, Fe.ofNat 1, Fe.ofNat 1, Fe.ofNat 0⟩ State.reset).readP 0).Z.val = 0 := by decide +kernel

/-- A pair on the curve, one off it, and one with x = y. -/
theorem witness_PointFromAffineResult :
    onCurve baseX baseY = true ∧ onCurve baseY baseX = false ∧ State.reset.readF 0 = State.reset.readF 1 := by decide +kernel

/-- Slots that decode (y = 3) and do not: y = p, y = 2, and x = 0 with the sign bit. -/
theorem witness_PointDecodeResult :
    (pdec (hex32 0x0300000000000000000000000000000000000000000000000000000000000000)).isSome = true ∧
    pdec (hex32 0xedffffffffffffffffffffffffffffffffffffffffffffffffffffffffffff7f) = none ∧
    pdec (hex32 0x0200000000000000000000000000000000000000000000000000000000000000) = none ∧
    pdec (hex32 0x0100000000000000000000000000000000000000000000000000000000000080) = none := by decide +kernel

theorem witness_PointEncodeResult :
    Memory.wf (withP 0 basePoint State.reset).mem ∧ ValidPoint ((withP 0 basePoint State.reset).readP 0) ∧
    ((withP 0 basePoint State.reset).readP 0).Z.val ≠ 0 ∧
    Fe.toZ baseX * Fe.toZ basePoint.Z = Fe.toZ basePoint.X ∧ Fe.toZ baseY * Fe.toZ basePoint.Z = Fe.toZ basePoint.Y :=
  ⟨Memory.wf_nil, ⟨_, _, represents_base⟩, by decide +kernel, by simp [basePoint], by simp [basePoint]⟩

/-- Scalars 0 and 1 on BASE, and the neutral. -/
theorem witness_ScalarMultiplicationCorners :
    Represents ((withP 0 basePoint State.reset).readP 0) (Fe.toZ baseX) (Fe.toZ baseY) ∧
    (withP 0 basePoint State.reset).kSlice .narrow = 0 ∧ (withK 1 State.reset).kSlice .wide = 1 ∧
    Represents (State.reset.readP 0) 0 1 ∧ ∃ t, exec (.smul 1 0 .narrow) (withP 0 basePoint State.reset) = .next t :=
  ⟨represents_base, by decide +kernel, by decide +kernel, represents_neutral, _, rfl⟩

/-- Two different points. -/
theorem witness_AdditionLawIsComplete :
    Represents basePoint (Fe.toZ baseX) (Fe.toZ baseY) ∧ Represents Point.neutral 0 1 ∧ basePoint ≠ Point.neutral :=
  ⟨represents_base, represents_neutral, by decide +kernel⟩

theorem witness_PointLawsOfTheSource : ValidPoint basePoint := ⟨_, _, represents_base⟩

theorem witness_FieldStoreWritesTheSlot : Memory.wf State.reset.mem ∧ ∃ u, exec (.fld 0 3) State.reset = .next u :=
  ⟨Memory.wf_nil, _, rfl⟩

/-- The last slot of the narrow form, the last of the wide form. -/
theorem witness_ScalarLoadReadsTheSlots :
    (Width.narrow = Width.wide → (3 : Slot).val ≤ 2) ∧ (Width.wide = Width.wide → (2 : Slot).val ≤ 2) := by decide

theorem witness_ScalarStoreWritesTheSlots :
    Memory.wf State.reset.mem ∧ (Width.narrow = Width.wide → (3 : Slot).val ≤ 2) ∧
    (Width.wide = Width.wide → (2 : Slot).val ≤ 2) :=
  ⟨Memory.wf_nil, by decide, by decide⟩

theorem witness_KeyTransfersMoveEveryByte : (2 : Slot).val ≤ 2 ∧ Memory.wf State.reset.mem := ⟨by decide, Memory.wf_nil⟩

theorem witness_DeriveWritesTheKeys : Memory.wf State.reset.mem := Memory.wf_nil

/-- The empty message, and a message of MSG_MAX bytes exactly. -/
theorem witness_SignpWritesTheSignature :
    Memory.wf State.reset.mem ∧ State.reset.msglen.toNat ≤ Config.msgMax ∧
    ({ State.reset with msglen := BitVec.ofNat 32 Config.msgMax } : State).msglen.toNat ≤ Config.msgMax := by
  refine ⟨Memory.wf_nil, by simp [State.reset], ?_⟩
  simp only [BitVec.toNat_ofNat]
  exact Nat.mod_le _ _

theorem witness_SignIsDeriveThenSignp :
    Memory.wf State.reset.mem ∧ State.reset.msglen.toNat ≤ Config.msgMax ∧ ∃ t, exec .derive State.reset = .next t :=
  ⟨Memory.wf_nil, by simp [State.reset], _, rfl⟩

/-- A state for each check: R undecodable; R decodable and S ≥ L; R decodable, S < L and the public key undecodable; both
decodable and S < L (whether STRICT_S is 0 or 1). -/
theorem witness_VerifyReportsTheFirstFailure :
    State.reset.msglen.toNat ≤ Config.msgMax ∧
    pdec ((withSlot 0 0x0200000000000000000000000000000000000000000000000000000000000000 State.reset).readSlot 0) = none ∧
    (pdec (State.reset.readSlot 0)).isSome = true ∧
    orderL ≤ leInt ((withSlot 1 0xffffffffffffffffffffffffffffffffffffffffffffffffffffffffffffffff State.reset).readSlot 1) ∧
    ¬(Config.strictS = true ∧ orderL ≤ leInt (State.reset.readSlot 1)) ∧
    pdec ((withSlot 2 0x0200000000000000000000000000000000000000000000000000000000000000 State.reset).readSlot 2) = none ∧
    (pdec (State.reset.readSlot 2)).isSome = true := by
  refine ⟨by simp [State.reset], by decide +kernel, by decide +kernel, by decide +kernel, fun h => ?_, by decide +kernel,
    by decide +kernel⟩
  exact absurd h.2 (by decide +kernel)

theorem witness_ClearRestoresTheDataState : ∃ t, exec .clr State.reset = .next t := ⟨_, rfl⟩

theorem witness_LengthCheckStopsBeforeAnyEffect :
    Config.msgMax < ({ State.reset with msglen := 0xFFFFFFFF } : State).msglen.toNat ∧
    ∃ t, exec .derive State.reset = .next t := by
  refine ⟨?_, _, rfl⟩
  have := msgMax_le
  have hx : (0xFFFFFFFF : Word).toNat = 2 ^ 32 - 1 := by decide
  simp only [hx]
  omega

/-- Two states that agree on the inputs and differ in F and a flag. -/
theorem witness_SequencerOutputsDependOnItsInputsOnly :
    ∃ s s' : State, s ≠ s' ∧ Memory.wf s.mem ∧ Memory.wf s'.mem ∧ s.msglen = s'.msglen ∧ s.msglen.toNat ≤ Config.msgMax ∧
      s.message = s'.message ∧ (∀ sl, s.readSlot sl = s'.readSlot sl) ∧ s.xsk = s'.xsk ∧
      ∀ i ∈ [Instr.sign, .signp, .verify], (∃ t, exec i s = .next t) ∧ ∃ t, exec i s' = .next t := by
  refine ⟨State.reset, { withF 0 5 State.reset with eq := true }, ?_, Memory.wf_nil, Memory.wf_nil, rfl, by simp [State.reset],
    rfl, fun _ => rfl, rfl, ?_⟩
  · intro h
    have h0 : false = true := congrArg State.eq h
    cases h0
  · intro i hi
    simp only [List.mem_cons, List.not_mem_nil, or_false] at hi
    obtain rfl | rfl | rfl := hi <;>
      simp only [exec, execSign, execSignp, execVerify] <;>
      exact ⟨by split <;> exact ⟨_, rfl⟩, by split <;> exact ⟨_, rfl⟩⟩

theorem witness_OnlyNamedCommandsWriteARegister :
    Instr.wf (.fst 0 3) = true ∧ Memory.wf State.reset.mem ∧ ∃ t, exec (.fst 0 3) State.reset = .next t :=
  ⟨by decide, Memory.wf_nil, _, rfl⟩

/-- A state that is not the reset state: one byte of IO listed, a word latched. -/
theorem witness_EveryStepKeepsTheInvariant :
    Inv { latched 0x44000000 with mem := [(0x0FF, 1)] } ∧ ∃ t, step { latched 0x44000000 with mem := [(0x0FF, 1)] } = .next t := by
  refine ⟨⟨⟨by simp, by simp [Memory.unlisted]⟩, by simp [inIO], fun _ => rfl⟩, ?_⟩
  rw [step_of_unit_ok (turn_eq_unit rfl (.inl rfl)) (by decide +kernel : _ = Except.ok Instr.clr)]
  exact ⟨_, rfl⟩

/-- Every point register holds BASE. -/
theorem witness_EveryStepKeepsPointsValid :
    PointsValid { State.reset with p := Vector.replicate 4 basePoint } ∧
    ∃ t, step { State.reset with p := Vector.replicate 4 basePoint } = .next t := by
  refine ⟨fun r => ?_, _, rfl⟩
  simp only [State.readP, Vector.getElem_replicate]
  exact ⟨_, _, represents_base⟩

/-- The neutral as (0, 1, 0, 1) and as (0, p - 1, 0, p - 1), in every point register. -/
theorem witness_TuplesAreNotObservable :
    ∃ s s' : State, SameUpToTuples s s' ∧ s ≠ s' ∧ (∃ t, step s = .next t) ∧ ∃ t, step s' = .next t := by
  refine ⟨State.reset, { State.reset with p := Vector.replicate 4 (pdbl Point.neutral) }, ⟨rfl, fun r => ?_⟩, ?_, ⟨_, rfl⟩, _, rfl⟩
  · simp only [State.readP, State.reset, Vector.getElem_replicate]
    exact ⟨_, _, represents_neutral, represents_doubled_neutral⟩
  · intro h
    have h0 := congrArg (fun s : State => (s.readP 0).Z) h
    exact absurd h0 (by decide +kernel)

theorem witness_DatapathTracesAreFixed : (2 : FReg) ≠ 3 := by decide

/-- Different seeds, keys and messages, equal lengths. -/
theorem witness_SigningTracesDependOnTheLengthOnly :
    ∃ s s' : State, s ≠ s' ∧ s.msglen = s'.msglen :=
  ⟨State.reset, { State.reset with mem := [(0x0E0, 1), (0x1000, 2)] }, fun h => absurd (congrArg State.mem h) (by decide), rfl⟩

end Sys2Proof.Tests
end

section
/-!
PROOFS. The state after reset (10_state.md R37): what each accessor reads there, and the account of every piece of state.
-/

namespace Sys2Proof.Machine

/-! ### What the accessors read in the reset state -/

/-- The coordinates of the neutral as integers (10_state.md R33). -/
theorem neutral_coordinates :
    Point.neutral.X.val = 0 ∧ Point.neutral.Y.val = 1 ∧ Point.neutral.T.val = 0 ∧ Point.neutral.Z.val = 1 := by
  decide

theorem getElem_xsk_reset (i : Fin 64) : State.reset.xsk[i] = 0 :=
  Vector.getElem_replicate i.isLt

@[simp] theorem read_mem_reset (a : Nat) : Memory.read State.reset.mem a = 0 :=
  Memory.read_nil a

@[simp] theorem statusWord_reset : State.reset.statusWord = 0 := by
  decide

/-! ### The obligation -/

/-- Settles O1: the field and point registers by what `readF` and `readP` see of reset, the other arrays by what an index or an
offset reads there, and the scalar fields by their values in `State.reset`. -/
theorem resetLeavesEveryPieceAtItsValue : Obligations.ResetLeavesEveryPieceAtItsValue := by
  unfold Obligations.ResetLeavesEveryPieceAtItsValue
  have hF (r : FReg) : (State.reset.readF r).val = 0 := by
    rw [readF_reset, val_ofNat, Nat.zero_mod]
  have hP (r : PReg) : (State.reset.readP r).X.val = 0 ∧ (State.reset.readP r).Y.val = 1 ∧
      (State.reset.readP r).T.val = 0 ∧ (State.reset.readP r).Z.val = 1 := by
    rw [readP_reset]
    exact neutral_coordinates
  exact ⟨hF, hP, rfl, getElem_xsk_reset, read_mem_reset, rfl, statusWord_reset, rfl, rfl, rfl, rfl, rfl, rfl, rfl⟩

end Sys2Proof.Machine
end

section
/-!
PROOFS. The host window (20_memory.md): what each row answers and changes when nothing is latched, the completion step that goes
before a held access, and the statements about reads, writes and access errors.
-/

namespace Sys2Proof.Machine

/-! ### Bytes of a word (20_memory.md R62) -/

/-- Byte `i` of a bit vector, as the digit of its number. -/
theorem extractLsb'_byte {n : Nat} (v : BitVec n) (i : Nat) :
    v.extractLsb' (8 * i) 8 = BitVec.ofNat 8 (v.toNat / 256 ^ i) := by
  rw [BitVec.extractLsb', Nat.shiftRight_eq_div_pow, pow_mul]
  norm_num

/-- The digits of `le_int(b)` are the bytes of b. -/
theorem ofNat_leInt_div (b : List Byte) (i : Nat) (h : i < b.length) :
    BitVec.ofNat 8 (leInt b / 256 ^ i) = b[i] := by
  rw [← getElem_leBytes b.length (leInt b) i (by simpa using h)]
  simp only [leBytes_leInt]

/-! ### The rows of the window (20_memory.md R61) -/

theorem accessOk_mapped {off : Nat} (h : MappedOffset off) : accessOk 32 off = true :=
  (accessOk_iff 32 off).2 ⟨rfl, h⟩

theorem windowRow_of_mapped_of_le {off : Nat} (h : MappedOffset off) (hle : 0x080 ≤ off) : windowRow off = .memory := by
  obtain ⟨-, hrow⟩ := h
  have h0 : off ≠ 0 := by omega
  have h4 : off ≠ 4 := by omega
  have h8 : off ≠ 8 := by omega
  have hmem : (inIO off || inMSG off) = true := by
    simp only [inIO, inMSG, Bool.or_eq_true, Bool.and_eq_true, decide_eq_true_eq]
    omega
  simp [windowRow, h0, h4, h8, hmem]

/-- The access errors of R70 are the accesses the window does not admit. -/
theorem accessError_iff (a : HostAccess) : AccessError a ↔ accessOk a.width a.off = false := by
  rw [← Bool.not_eq_true, accessOk_iff, AccessError]
  omega

theorem ne_statusRead_of_accessError {a : HostAccess} (h : AccessError a) : a ≠ .read 32 4 := by
  rintro rfl
  have hok : accessOk 32 4 = false := (accessError_iff _).1 h
  exact absurd hok (by decide)

/-! ### Reads and writes, row by row (20_memory.md R64, R65) -/

section
variable (s : State)

@[simp] theorem hostRead32_cmd : s.hostRead32 0 = 0 := rfl

@[simp] theorem hostRead32_status : s.hostRead32 4 = s.statusWord := rfl

@[simp] theorem hostRead32_msglen : s.hostRead32 8 = s.msglen := rfl

/-- In IO and MSG, byte `i` of the word read is the byte at the offset plus `i`. -/
theorem extractLsb'_hostRead32 {off : Nat} (h : MappedOffset off) (hle : 0x080 ≤ off) (i : Nat) (hi : i < 4) :
    (s.hostRead32 off).extractLsb' (8 * i) 8 = Memory.read s.mem (off + i) := by
  have hword : s.hostRead32 off = BitVec.ofNat 32 (leInt (Memory.readBytes s.mem off 4)) := by
    rw [State.hostRead32, windowRow_of_mapped_of_le h hle]
  have hfit : leInt (Memory.readBytes s.mem off 4) < 2 ^ 32 := by
    simpa using leInt_lt (Memory.readBytes s.mem off 4)
  rw [extractLsb'_byte, hword, BitVec.toNat_ofNat, Nat.mod_eq_of_lt hfit, ofNat_leInt_div _ i (by simpa using hi),
    Memory.getElem_readBytes]

variable (v : Word)

@[simp] theorem hostWrite32_cmd : s.hostWrite32 0 v = s.latch v := rfl

@[simp] theorem hostWrite32_status : s.hostWrite32 4 v = s := rfl

@[simp] theorem hostWrite32_msglen : s.hostWrite32 8 v = { s with msglen := v } := rfl

theorem hostWrite32_memory {off : Nat} (h : MappedOffset off) (hle : 0x080 ≤ off) :
    s.hostWrite32 off v = { s with mem := Memory.writeBytes s.mem off (leBytes 4 v.toNat) } := by
  rw [State.hostWrite32, windowRow_of_mapped_of_le h hle]

@[simp] theorem hostWrite32_inputs (off : Nat) : (s.hostWrite32 off v).inputs = s.inputs := by
  unfold State.hostWrite32
  split <;> rfl

@[simp] theorem hostWrite32_replies (off : Nat) : (s.hostWrite32 off v).replies = s.replies := by
  unfold State.hostWrite32
  split <;> rfl

end

/-- Byte `i` of a word stored little-endian reads back at the offset plus `i`. -/
theorem read_writeWord (m : Memory) (off : Nat) (v : Word) (hm : Memory.wf m) (i : Nat) (hi : i < 4) :
    Memory.read (Memory.writeBytes m off (leBytes 4 v.toNat)) (off + i) = v.extractLsb' (8 * i) 8 := by
  have hlen : i < (leBytes 4 v.toNat).length := by simpa using hi
  rw [Memory.read_writeBytes m off (off + i) _ hm, if_pos ⟨by omega, by omega⟩, Nat.add_sub_cancel_left,
    List.getD_eq_getElem _ _ hlen, getElem_leBytes, extractLsb'_byte]

/-- A byte outside the word stored reads as before. -/
theorem read_writeWord_of_not_within (m : Memory) (off : Nat) (v : Word) (hm : Memory.wf m) {a : Nat}
    (ha : within off 4 a = false) : Memory.read (Memory.writeBytes m off (leBytes 4 v.toNat)) a = Memory.read m a := by
  have hout : ¬(off ≤ a ∧ a < off + 4) := by simpa [within] using ha
  rw [Memory.read_writeBytes m off a _ hm, length_leBytes, if_neg hout]

/-! ### An access is served when nothing is latched -/

/-- With BUSY = 0 the oldest access is served in this step. -/
theorem step_of_idle_access {s : State} {a : HostAccess} {rest : List HostEvent} (hc : s.cmd = none)
    (hi : s.inputs = .access a :: rest) : step s = .next (({ s with inputs := rest } : State).serve a) := by
  have hturn : s.turn = .host (.access a) := by simp [State.turn, hc, hi]
  rw [step_of_host hturn, takeEvent_access]
  simp [State.busy, hc, hi]

theorem serve_of_accessError (s : State) {a : HostAccess} (h : AccessError a) : s.serve a = s.reply .hostErr := by
  have hno := (accessError_iff a).1 h
  cases a with
  | read width off => exact serve_error s _ (.inl ⟨width, off, rfl, hno⟩)
  | write width off v => exact serve_error s _ (.inr ⟨width, off, v, rfl, hno⟩)

/-! ### The completion step (20_memory.md R66, R68) -/

/-- The host's side of `t` is that of `s`: the waiting events, the answers, the counters of the busy interval. -/
structure SameHostSide (s t : State) : Prop where
  inputs : t.inputs = s.inputs
  replies : t.replies = s.replies
  busyLeft : t.busyLeft = s.busyLeft
  latches : t.latches = s.latches

/-- The outcome is a next state in which the command has ended with some result code and the host's side is that of `s`. -/
def Completes (s : State) (r : Result) : Prop :=
  ∃ t e, r = .next t ∧ Ended e t ∧ SameHostSide s t

@[simp] theorem sameHostSide_iff (s t : State) : SameHostSide s t ↔
    t.inputs = s.inputs ∧ t.replies = s.replies ∧ t.busyLeft = s.busyLeft ∧ t.latches = s.latches :=
  ⟨fun h => ⟨h.inputs, h.replies, h.busyLeft, h.latches⟩,
    fun ⟨hinputs, hreplies, hbusy, hlatches⟩ => ⟨hinputs, hreplies, hbusy, hlatches⟩⟩

theorem sameHostSide_deriveBody (s : State) : SameHostSide s s.deriveBody := by
  simp [State.deriveBody]

theorem sameHostSide_signBody (s : State) : SameHostSide s s.signBody := by
  simp [State.signBody]

theorem SameHostSide.trans {s t u : State} (h : SameHostSide s t) (h' : SameHostSide t u) : SameHostSide s u :=
  ⟨h'.inputs.trans h.inputs, h'.replies.trans h.replies, h'.busyLeft.trans h.busyLeft, h'.latches.trans h.latches⟩

theorem completes_complete {s u : State} (e : ResultCode) (h : SameHostSide s u) : Completes s (.next (u.complete e)) :=
  ⟨_, e, rfl, ended_complete u e, by simpa using h⟩

theorem completes_illegal (s : State) : Completes s (.next s.illegal) :=
  ⟨_, _, rfl, ended_illegal s, rfl, rfl, rfl, rfl⟩

theorem completes_ite {s : State} {c : Prop} [Decidable c] {r r' : Result} (h : Completes s r) (h' : Completes s r') :
    Completes s (if c then r else r') := by
  split
  · exact h
  · exact h'

/-- PFAF's two results (41_point.md R169), without the definition's own `match`: the kernel would evaluate its discriminant, the
curve equation on unknown coordinates, where it compares a call of `execPfaf` with that `match`. So the definition is unfolded as a
function, before it has arguments. -/
theorem execPfaf_eq_elim (d : PReg) (a b : FReg) (s : State) :
    execPfaf d a b s = (pfaf (s.readF a) (s.readF b)).elim (.next ((s.writeValid false).complete .ok))
      fun P => .next (((s.writeP d P).writeValid true).complete .ok) := by
  generalize hdef : execPfaf = f
  delta execPfaf at hdef
  subst hdef
  beta_reduce
  cases pfaf (s.readF a) (s.readF b) with
  | none => rfl
  | some P => rfl

/-- Every command completes, well formed or not, and answers no access. -/
theorem exec_completes (i : Instr) (s : State) : Completes s (exec i s) := by
  have hill := completes_illegal s
  have hlength : Completes s (.next (s.complete .badLength)) := completes_complete _ (by simp)
  cases i with
  | fsqrt d e a =>
    refine completes_ite hill ?_
    split
    · exact completes_complete _ (by simp)
    · exact completes_complete _ (by simp)
  | paff d e a => exact completes_ite hill (completes_complete _ (by simp))
  | pfaf d a b =>
    have hexec : exec (.pfaf d a b) s = _ := execPfaf_eq_elim d a b s
    rw [hexec]
    cases pfaf (s.readF a) (s.readF b) with
    | none => exact completes_complete _ (by simp)
    | some P => exact completes_complete _ (by simp)
  | pdec d sl =>
    simp only [exec, execPdec]
    split
    · exact completes_complete _ (by simp)
    · exact completes_complete _ (by simp)
  | kld sl w | kst sl w | xld sl | xst sl => exact completes_ite (completes_complete _ (by simp)) hill
  | derive => exact completes_complete _ (sameHostSide_deriveBody s)
  | sign =>
    exact completes_ite (completes_complete _ ((sameHostSide_deriveBody s).trans (sameHostSide_signBody _))) hlength
  | signp => exact completes_ite (completes_complete _ (sameHostSide_signBody s)) hlength
  | verify => exact completes_ite (completes_complete _ (by simp)) hlength
  | _ => exact completes_complete _ (by simp)

/-- A completion step that is due runs, for a legal word and for an illegal one. -/
theorem step_completes {s : State} {w : Word} (hc : s.cmd = some w) (hd : CompletionDue s) : Completes s (step s) := by
  have hturn := turn_eq_unit hc hd
  cases hw : decode w with
  | ok i =>
    rw [step_of_unit_ok hturn hw]
    exact exec_completes i s
  | error e =>
    rw [step_of_unit_error hturn hw]
    exact completes_illegal s

/-! ### The obligations -/

/-- Settles O12: the step is the write of the offset's row, answered; each clause is the row's own equation, and in IO and MSG
the stored bytes are read back one by one. -/
theorem hostWriteChangesTheMappedLocation : Obligations.HostWriteChangesTheMappedLocation := by
  unfold Obligations.HostWriteChangesTheMappedLocation
  intro s off v rest hm hc hi hoff
  have hstep : step s = .next ((({ s with inputs := rest } : State).hostWrite32 off v).reply .ok) := by
    rw [step_of_idle_access hc hi, serve_write_ok _ v (accessOk_mapped hoff)]
  refine ⟨_, hstep, by simp, by simp, ?_, ?_, ?_, fun hle => ?_⟩
  · rintro rfl
    rw [hostWrite32_cmd]
    exact ⟨rfl, rfl, rfl⟩
  · rintro rfl
    rw [hostWrite32_status]
    rfl
  · rintro rfl
    rw [hostWrite32_msglen]
    rfl
  · rw [hostWrite32_memory _ v hoff hle]
    exact ⟨rfl, read_writeWord s.mem off v hm, fun a => read_writeWord_of_not_within s.mem off v hm⟩

/-- Settles O11: the word answered is that of the offset's row, read in a state that differs from `s` in its waiting events. -/
theorem hostReadReturnsTheMappedData : Obligations.HostReadReturnsTheMappedData := by
  unfold Obligations.HostReadReturnsTheMappedData
  intro s off rest hc hi hoff
  have hstep : step s = .next (({ s with inputs := rest } : State).reply
      (.data (({ s with inputs := rest } : State).hostRead32 off))) := by
    rw [step_of_idle_access hc hi, serve_read_ok _ (accessOk_mapped hoff)]
  refine ⟨_, hstep, ?_, ?_, ?_, extractLsb'_hostRead32 _ hoff⟩
  · rintro rfl
    exact hostRead32_cmd _
  · rintro rfl
    exact hostRead32_status _
  · rintro rfl
    exact hostRead32_msglen _

/-- Settles O13: with nothing latched the access is served and answered with the error; with a word latched it is no STATUS read,
so the completion step is due and leaves the host's side alone. -/
theorem accessErrorChangesNoState : Obligations.AccessErrorChangesNoState := by
  unfold Obligations.AccessErrorChangesNoState
  intro s a rest hi herr
  constructor
  · intro hc
    rw [step_of_idle_access hc hi, serve_of_accessError _ herr]
    rfl
  · intro w hc
    have hdue : CompletionDue s := .inr (.inr ⟨a, rest, hi, ne_statusRead_of_accessError herr⟩)
    obtain ⟨t, e, hstep, hended, hside⟩ := step_completes hc hdue
    exact ⟨t, hstep, hended.idle, hside.inputs, hside.replies⟩

end Sys2Proof.Machine
end

section
/-!
PROOFS. Legality of a command word (30_encoding.md R92, R95, R96): the mask test of a row read as ranges of the six fields, the
extra constraints read on the same fields, and the statement that the legal words are those whose fields fit a format.
-/

namespace Sys2Proof.Machine

/-! ### The fields of a word (30_encoding.md R91, R93, R94) -/

/-- A word is determined by its fields. -/
theorem WordFields.of_injective : Function.Injective WordFields.of := by
  intro v w h
  simp only [of, WordFields.mk.injEq] at h
  apply BitVec.eq_of_toNat_eq
  omega

/-- The bits two words share, field by field. -/
theorem WordFields.of_and (w m : Word) : WordFields.of (w &&& m) =
    ⟨(of w).op &&& (of m).op, (of w).d &&& (of m).d, (of w).a &&& (of m).a, (of w).b &&& (of m).b,
      (of w).e &&& (of m).e, (of w).imm &&& (of m).imm⟩ := by
  have hnibble (n k : Nat) : (n &&& k) % 16 = n % 16 &&& k % 16 := Nat.and_mod_two_pow (n := 4)
  simp only [of, BitVec.toNat_and, Nat.and_div_two_pow, Nat.and_mod_two_pow, hnibble]

section
variable (w : Word)

theorem WordFields.op_of_lt : (WordFields.of w).op < 2 ^ 8 := by
  simp only [of]
  omega

theorem WordFields.registers_of_lt : (WordFields.of w).d < 16 ∧ (WordFields.of w).a < 16 ∧ (WordFields.of w).b < 16 ∧
    (WordFields.of w).e < 16 := by
  simp only [of]
  omega

theorem WordFields.imm_of_lt : (WordFields.of w).imm < 256 :=
  Nat.mod_lt _ (by decide)

theorem toNat_opcodeField : (w.extractLsb' 24 8).toNat = (WordFields.of w).op := by
  simp only [BitVec.extractLsb'_toNat, Nat.shiftRight_eq_div_pow, WordFields.of]
  omega

theorem val_fRegField (lo : Nat) : (fRegField w lo).val = w.toNat / 2 ^ lo % 8 := by
  rw [← Nat.shiftRight_eq_div_pow]
  exact BitVec.extractLsb'_toNat lo 3 w

theorem val_fRegField_d : (fRegField w 20).val = (WordFields.of w).d % 8 := by
  rw [val_fRegField, WordFields.of, Nat.mod_mod_of_dvd _ (by decide)]

theorem val_fRegField_e : (fRegField w 8).val = (WordFields.of w).e % 8 := by
  rw [val_fRegField, WordFields.of, Nat.mod_mod_of_dvd _ (by decide)]

theorem val_slotField : (slotField w).val = (WordFields.of w).imm % 4 := by
  rw [WordFields.of, Nat.mod_mod_of_dvd _ (by decide)]
  exact BitVec.extractLsb'_toNat 0 2 w

/-- The width selector is bit 4 of the immediate. -/
theorem ofBit_eq_narrow_iff : Width.ofBit (w.getLsbD 4) = .narrow ↔ (WordFields.of w).imm / 16 % 2 = 0 := by
  have hbit : w.getLsbD 4 = decide (w.toNat / 2 ^ 4 % 2 = 1) := Nat.testBit_eq_decide_div_mod_eq
  have himm : (WordFields.of w).imm / 16 % 2 = w.toNat / 2 ^ 4 % 2 := by
    simp only [WordFields.of]
    omega
  rw [himm, hbit]
  simp [Width.ofBit]

end

/-! ### The row of a word (30_encoding.md R95, R101) -/

theorem ofCode_code (o : Opcode) : Opcode.ofCode o.code = some o := by
  cases o <;> decide

theorem ofCode_opcodeField_eq_some_iff (w : Word) (o : Opcode) :
    Opcode.ofCode (w.extractLsb' 24 8) = some o ↔ (WordFields.of w).op = o.code.toNat := by
  rw [← toNat_opcodeField, BitVec.toNat_inj]
  constructor
  · intro h
    have hcode : decide (o.code = w.extractLsb' 24 8) = true :=
      List.find?_some (p := fun o : Opcode => decide (o.code = w.extractLsb' 24 8)) h
    exact (of_decide_eq_true hcode).symm
  · intro h
    rw [h, ofCode_code]

/-- A word decodes exactly when it has a row, passes its mask test and meets its extra constraint. -/
theorem exists_decode_eq_ok_iff (w : Word) : (∃ i, decode w = .ok i) ↔
    ∃ o, Opcode.ofCode (w.extractLsb' 24 8) = some o ∧ w &&& o.mask = o.matchBits ∧ (o.operands w).wf = true := by
  unfold decode
  cases Opcode.ofCode (w.extractLsb' 24 8) with
  | none => simp
  | some o =>
    by_cases hmask : w &&& o.mask = o.matchBits
    · by_cases hwf : (o.operands w).wf = true
      · simp [hmask, hwf]
      · simp [hmask, hwf]
    · simp [hmask]

/-! ### The mask test, field by field (30_encoding.md R95) -/

/-- A mask nibble with its high bits set leaves the register numbers from 0 on: 8, 4 or 1 of them. -/
theorem register_and_eq_zero_iff : ∀ n < 16, ∀ m ∈ [8, 12, 15], n &&& m = 0 ↔ n ≤ 15 - m := by
  decide

/-- The immediates that the mask bytes of the opcode map leave. -/
theorem imm_and_eq_zero_iff : ∀ n < 256, (n &&& 0xFF = 0 ↔ n = 0) ∧ (n &&& 0xFE = 0 ↔ n ≤ 1) ∧
    (n &&& 0xFC = 0 ↔ n ≤ 3) ∧ (n &&& 0xEC = 0 ↔ n ≤ 3 ∨ (16 ≤ n ∧ n ≤ 19)) := by
  decide +kernel

/-- Every mask covers the opcode, and has high bits set in each register field. -/
theorem fields_mask (o : Opcode) : (WordFields.of o.mask).op = 2 ^ 8 - 1 ∧
    (WordFields.of o.mask).d ∈ [8, 12, 15] ∧ (WordFields.of o.mask).a ∈ [8, 12, 15] ∧
    (WordFields.of o.mask).b ∈ [8, 12, 15] ∧ (WordFields.of o.mask).e ∈ [8, 12, 15] := by
  cases o <;> decide

theorem fields_matchBits (o : Opcode) : WordFields.of o.matchBits = ⟨o.code.toNat, 0, 0, 0, 0, 0⟩ := by
  cases o <;> rfl

/-- What a row's mask asks of the operand fields. -/
def MaskAdmits (o : Opcode) (x : WordFields) : Prop :=
  x.d ≤ 15 - (WordFields.of o.mask).d ∧ x.a ≤ 15 - (WordFields.of o.mask).a ∧ x.b ≤ 15 - (WordFields.of o.mask).b ∧
    x.e ≤ 15 - (WordFields.of o.mask).e ∧ x.imm &&& (WordFields.of o.mask).imm = 0

/-- The mask test of a row is its opcode number and a range for each operand field. -/
theorem and_mask_eq_matchBits_iff (o : Opcode) (w : Word) : w &&& o.mask = o.matchBits ↔
    (WordFields.of w).op = o.code.toNat ∧ MaskAdmits o (WordFields.of w) := by
  obtain ⟨hop, hd, ha, hb, he⟩ := fields_mask o
  obtain ⟨hdlt, halt, hblt, helt⟩ := WordFields.registers_of_lt w
  rw [← WordFields.of_injective.eq_iff, WordFields.of_and, fields_matchBits, WordFields.mk.injEq, hop,
    Nat.and_two_pow_sub_one_of_lt_two_pow (WordFields.op_of_lt w), register_and_eq_zero_iff _ hdlt _ hd,
    register_and_eq_zero_iff _ halt _ ha, register_and_eq_zero_iff _ hblt _ hb, register_and_eq_zero_iff _ helt _ he,
    MaskAdmits]

/-! ### The extra constraints (30_encoding.md R96 e, f) -/

/-- A row's extra constraint, on fields that have passed its mask test. -/
def ExtraAdmits (o : Opcode) (x : WordFields) : Prop :=
  match o with
  | .FSQRT | .PAFF => x.e ≠ x.d
  | .KLD | .KST => x.imm ≤ 18
  | .XLD | .XST => x.imm ≤ 2
  | _ => True

section
variable {w : Word}

theorem fRegField_ne_iff (hd : (WordFields.of w).d ≤ 7) (he : (WordFields.of w).e ≤ 7) :
    fRegField w 20 ≠ fRegField w 8 ↔ (WordFields.of w).e ≠ (WordFields.of w).d := by
  rw [ne_eq, Fin.ext_iff, val_fRegField_d, val_fRegField_e]
  omega

/-- KLD and KST: of the immediates 0 to 3 and 16 to 19 only 19 runs past the end of IO. -/
theorem narrow_or_slotField_le_iff (h : (WordFields.of w).imm &&& 0xEC = 0) :
    (Width.ofBit (w.getLsbD 4) = .narrow ∨ (slotField w).val ≤ 2) ↔ (WordFields.of w).imm ≤ 18 := by
  obtain ⟨-, -, -, himm⟩ := imm_and_eq_zero_iff _ (WordFields.imm_of_lt w)
  have hrange := himm.1 h
  rw [ofBit_eq_narrow_iff, val_slotField]
  omega

theorem slotField_le_iff (h : (WordFields.of w).imm &&& 0xFC = 0) :
    (slotField w).val ≤ 2 ↔ (WordFields.of w).imm ≤ 2 := by
  obtain ⟨-, -, himm, -⟩ := imm_and_eq_zero_iff _ (WordFields.imm_of_lt w)
  have hrange := himm.1 h
  rw [val_slotField]
  omega

theorem wf_operands_iff {o : Opcode} (h : MaskAdmits o (WordFields.of w)) :
    (o.operands w).wf = true ↔ ExtraAdmits o (WordFields.of w) := by
  obtain ⟨hd, -, -, he, himm⟩ := h
  cases o with
  | FSQRT | PAFF => exact decide_eq_true_iff.trans (fRegField_ne_iff hd he)
  | KLD | KST => simpa [Opcode.operands, Instr.wf, Slot.pairFits, ExtraAdmits] using narrow_or_slotField_le_iff himm
  | XLD | XST => exact decide_eq_true_iff.trans (slotField_le_iff himm)
  | _ => exact iff_of_true rfl trivial

end

/-! ### The formats (30_encoding.md R92) -/

/-- Every format lists opcodes of the map only. -/
theorem exists_opcode_of_formatAdmits {x : WordFields} (h : FormatAdmits x) : ∃ o : Opcode, x.op = o.code.toNat := by
  have hcodes : Opcode.all.map (fun o => o.code.toNat) =
      [0x10, 0x11, 0x12, 0x13, 0x14, 0x15, 0x16, 0x17, 0x18, 0x19, 0x1A, 0x1B, 0x1C, 0x1D, 0x20, 0x21, 0x22, 0x23, 0x24, 0x25,
        0x26, 0x27, 0x28, 0x29, 0x2A, 0x30, 0x31, 0x32, 0x33, 0x40, 0x41, 0x42, 0x43, 0x44] := by
    decide
  have hmem : x.op ∈ Opcode.all.map fun o => o.code.toNat := by
    simp only [FormatAdmits, List.mem_cons, List.not_mem_nil, or_false] at h
    simp only [hcodes, List.mem_cons, List.not_mem_nil, or_false]
    omega
  obtain ⟨o, -, ho⟩ := List.mem_map.1 hmem
  exact ⟨o, ho.symm⟩

/-- At one opcode number one format is left, and it is what the row's mask and extra constraint ask. -/
theorem formatAdmits_iff_of_op {o : Opcode} {x : WordFields} (hop : x.op = o.code.toNat) (himm : x.imm < 256) :
    FormatAdmits x ↔ MaskAdmits o x ∧ ExtraAdmits o x := by
  obtain ⟨hFF, hFE, hFC, hEC⟩ := imm_and_eq_zero_iff _ himm
  rw [FormatAdmits, hop, MaskAdmits]
  cases o with
  | FSQRT | PAFF =>
    simp [Opcode.code, Opcode.matchBits, Opcode.mask, WordFields.of, ExtraAdmits, hFF]
    omega
  | KLD | KST =>
    simp [Opcode.code, Opcode.matchBits, Opcode.mask, WordFields.of, ExtraAdmits, hEC]
    omega
  | XLD | XST =>
    simp [Opcode.code, Opcode.matchBits, Opcode.mask, WordFields.of, ExtraAdmits, hFC]
    omega
  | _ => simp [Opcode.code, Opcode.matchBits, Opcode.mask, WordFields.of, ExtraAdmits, hFF, hFE, hFC]

/-- The first half of R96: legal by the masks exactly when the fields fit a format. -/
theorem exists_decode_eq_ok_iff_formatAdmits (w : Word) : (∃ i, decode w = .ok i) ↔ FormatAdmits (WordFields.of w) := by
  have himm := WordFields.imm_of_lt w
  rw [exists_decode_eq_ok_iff]
  constructor
  · rintro ⟨o, -, hmask, hwf⟩
    obtain ⟨hop, hfields⟩ := (and_mask_eq_matchBits_iff o w).1 hmask
    exact (formatAdmits_iff_of_op hop himm).2 ⟨hfields, (wf_operands_iff hfields).1 hwf⟩
  · intro h
    obtain ⟨o, hop⟩ := exists_opcode_of_formatAdmits h
    obtain ⟨hfields, hextra⟩ := (formatAdmits_iff_of_op hop himm).1 h
    exact ⟨o, (ofCode_opcodeField_eq_some_iff w o).2 hop, (and_mask_eq_matchBits_iff o w).2 ⟨hop, hfields⟩,
      (wf_operands_iff hfields).2 hextra⟩

/-! ### The obligation -/

/-- Settles O5: the masks by their fields, row by row; and a word that fits no format decodes to no command, so its completion
step is that of an illegal word. -/
theorem wordIsLegalExactlyWhenItsFieldsFit : Obligations.WordIsLegalExactlyWhenItsFieldsFit := by
  unfold Obligations.WordIsLegalExactlyWhenItsFieldsFit
  refine ⟨exists_decode_eq_ok_iff_formatAdmits, fun s w hc hd hfit => ?_⟩
  cases hw : decode w with
  | ok i => exact absurd ((exists_decode_eq_ok_iff_formatAdmits w).1 ⟨i, hw⟩) hfit
  | error e => exact ⟨s.illegal, step_of_unit_error (turn_eq_unit hc hd) hw, ended_illegal s, rfl, rfl⟩

end Sys2Proof.Machine
end

section
/-!
PROOFS. Decoding the encoder's word (30_encoding.md R91 to R95, R99): the word passes its own row's mask test, and each operand
field read back is the operand it was assembled from.
-/

namespace Sys2Proof.Machine

/-! ### The row of an encoded word (R95) -/

/-- A word that passes a row's mask test and meets its extra constraint decodes to that row's operands (R101). -/
theorem decode_of_mask {w : Word} {o : Opcode} (hmask : w &&& o.mask = o.matchBits) (hwf : (o.operands w).wf = true) :
    decode w = .ok (o.operands w) := by
  obtain ⟨hop, -⟩ := (and_mask_eq_matchBits_iff o w).1 hmask
  rw [decode, (ofCode_opcodeField_eq_some_iff w o).2 hop]
  simp [hmask, hwf]

theorem encode_and_mask : ∀ i : Instr, encode i &&& i.opcode.mask = i.opcode.matchBits
  | .fadd d a b => Laws.EncodedRow.fadd d a b
  | .fsub d a b => Laws.EncodedRow.fsub d a b
  | .fneg d a => Laws.EncodedRow.fneg d a
  | .fmul d a b => Laws.EncodedRow.fmul d a b
  | .fsqr d a => Laws.EncodedRow.fsqr d a
  | .finv d a => Laws.EncodedRow.finv d a
  | .fexp d a => Laws.EncodedRow.fexp d a
  | .fsqrt d e a => Laws.EncodedRow.fsqrt d e a
  | .feq a b => Laws.EncodedRow.feq a b
  | .fpar a => Laws.EncodedRow.fpar a
  | .fmov d a => Laws.EncodedRow.fmov d a
  | .fldc d c => Laws.EncodedRow.fldc d c
  | .fld d sl => Laws.EncodedRow.fld d sl
  | .fst a sl => Laws.EncodedRow.fst a sl
  | .padd d a b => Laws.EncodedRow.padd d a b
  | .pdbl d a => Laws.EncodedRow.pdbl d a
  | .pneg d a => Laws.EncodedRow.pneg d a
  | .peq a b => Laws.EncodedRow.peq a b
  | .pmov d a => Laws.EncodedRow.pmov d a
  | .pldc d c => Laws.EncodedRow.pldc d c
  | .paff d e a => Laws.EncodedRow.paff d e a
  | .pfaf d a b => Laws.EncodedRow.pfaf d a b
  | .pdec d sl => Laws.EncodedRow.pdec d sl
  | .penc a sl => Laws.EncodedRow.penc a sl
  | .smul d a w => Laws.EncodedRow.smul d a w
  | .kld sl w => Laws.EncodedRow.kld sl w
  | .kst sl w => Laws.EncodedRow.kst sl w
  | .xld sl => Laws.EncodedRow.xld sl
  | .xst sl => Laws.EncodedRow.xst sl
  | .derive => Laws.EncodedRow.derive
  | .sign => Laws.EncodedRow.sign
  | .signp => Laws.EncodedRow.signp
  | .verify => Laws.EncodedRow.verify
  | .clr => Laws.EncodedRow.clr

/-! ### The fields of an assembled word (R91, R93, R94) -/

theorem val_pRegField (w : Word) (lo : Nat) : (pRegField w lo).val = w.toNat / 2 ^ lo % 4 := by
  rw [← Nat.shiftRight_eq_div_pow]
  exact BitVec.extractLsb'_toNat lo 2 w

section
variable (op d a b e imm : Nat)

theorem toNat_assemble : (assemble op d a b e imm).toNat =
    (op * 2 ^ 24 + d * 2 ^ 20 + a * 2 ^ 16 + b * 2 ^ 12 + e * 2 ^ 8 + imm) % 2 ^ 32 :=
  BitVec.toNat_ofNat _ _

/-- The low two bits of the word are those of the immediate, whatever the other fields hold. -/
theorem extractLsb'_assemble : (assemble op d a b e imm).extractLsb' 0 2 = BitVec.ofNat 2 imm := by
  apply BitVec.eq_of_toNat_eq
  rw [BitVec.extractLsb'_toNat, toNat_assemble, BitVec.toNat_ofNat]
  omega

theorem val_slotField_assemble : (slotField (assemble op d a b e imm)).val = imm % 4 := by
  have hval (w : Word) : (slotField w).val = (w.extractLsb' 0 2).toNat := rfl
  rw [hval, extractLsb'_assemble, BitVec.toNat_ofNat]

/-- A bit below 8 of the word is that bit of the immediate. -/
theorem getLsbD_assemble {k : Nat} (hk : k < 8) : (assemble op d a b e imm).getLsbD k = imm.testBit k := by
  have hlow : (assemble op d a b e imm).toNat % 2 ^ 8 = imm % 2 ^ 8 := by
    rw [toNat_assemble]
    omega
  calc (assemble op d a b e imm).toNat.testBit k = ((assemble op d a b e imm).toNat % 2 ^ 8).testBit k := by
        simp only [Nat.testBit_mod_two_pow, hk, decide_true, Bool.true_and]
    _ = imm.testBit k := by simp only [hlow, Nat.testBit_mod_two_pow, hk, decide_true, Bool.true_and]

end

theorem FieldConst.code_lt (c : FieldConst) : c.code < 4 := by
  cases c <;> decide

theorem PointConst.code_lt (c : PointConst) : c.code < 2 := by
  cases c <;> decide

theorem Width.bit_lt (w : Width) : w.bit < 2 := by
  cases w <;> decide

theorem FieldConst.ofCode_code (c : FieldConst) : FieldConst.ofCode (BitVec.ofNat 2 c.code) = c := by
  cases c <;> rfl

theorem PointConst.ofCode_code (c : PointConst) : PointConst.ofCode (c.code.testBit 0) = c := by
  cases c <;> rfl

theorem Width.ofBit_bit (w : Width) : Width.ofBit (w.bit.testBit 0) = w := by
  cases w <;> rfl

/-- Bit 4 of the immediate of KLD and KST is the width selector, above the slot number. -/
theorem Width.ofBit_slot_add_bit (sl : Slot) (w : Width) : Width.ofBit ((sl.val + 16 * w.bit).testBit 4) = w := by
  revert sl
  cases w <;> decide

/-- Each operand is read back from the field its format puts it in (R92). -/
theorem operands_encode (i : Instr) : i.opcode.operands (encode i) = i := by
  cases i with
  | fadd d a b | fsub d a b | fmul d a b | padd d a b | pfaf d a b =>
    simp only [Instr.opcode, Opcode.operands, encode, Instr.fadd.injEq, Instr.fsub.injEq, Instr.fmul.injEq,
      Instr.padd.injEq, Instr.pfaf.injEq, Fin.ext_iff, val_fRegField, val_pRegField, toNat_assemble]
    omega
  | fneg d a | fsqr d a | finv d a | fexp d a | fmov d a | pdbl d a | pneg d a | pmov d a =>
    simp only [Instr.opcode, Opcode.operands, encode, Instr.fneg.injEq, Instr.fsqr.injEq, Instr.finv.injEq,
      Instr.fexp.injEq, Instr.fmov.injEq, Instr.pdbl.injEq, Instr.pneg.injEq, Instr.pmov.injEq, Fin.ext_iff,
      val_fRegField, val_pRegField, toNat_assemble]
    omega
  | fsqrt d e a | paff d e a =>
    simp only [Instr.opcode, Opcode.operands, encode, Instr.fsqrt.injEq, Instr.paff.injEq, Fin.ext_iff,
      val_fRegField, val_pRegField, toNat_assemble]
    omega
  | feq a b | peq a b | fpar a =>
    simp only [Instr.opcode, Opcode.operands, encode, Instr.feq.injEq, Instr.peq.injEq, Instr.fpar.injEq, Fin.ext_iff,
      val_fRegField, val_pRegField, toNat_assemble]
    omega
  | fldc d c =>
    have hlt := FieldConst.code_lt c
    simp only [Instr.opcode, Opcode.operands, encode, extractLsb'_assemble, FieldConst.ofCode_code, and_true, Instr.fldc.injEq,
      Fin.ext_iff, val_fRegField, toNat_assemble]
    omega
  | fld d sl | fst d sl | pdec d sl | penc d sl =>
    simp only [Instr.opcode, Opcode.operands, encode, Instr.fld.injEq, Instr.fst.injEq, Instr.pdec.injEq,
      Instr.penc.injEq, Fin.ext_iff, val_slotField_assemble, val_fRegField, val_pRegField, toNat_assemble]
    omega
  | pldc d c =>
    have hlt := PointConst.code_lt c
    simp only [Instr.opcode, Opcode.operands, encode, Nat.reduceLT, getLsbD_assemble, PointConst.ofCode_code,
      and_true, Instr.pldc.injEq, Fin.ext_iff, val_pRegField, toNat_assemble]
    omega
  | smul d a w =>
    have hlt := Width.bit_lt w
    simp only [Instr.opcode, Opcode.operands, encode, Nat.reduceLT, getLsbD_assemble, Width.ofBit_bit,
      and_true, Instr.smul.injEq, Fin.ext_iff, val_pRegField, toNat_assemble]
    omega
  | kld sl w | kst sl w =>
    simp only [Instr.opcode, Opcode.operands, encode, Nat.reduceLT, getLsbD_assemble, Width.ofBit_slot_add_bit,
      and_true, Instr.kld.injEq, Instr.kst.injEq, Fin.ext_iff, val_slotField_assemble]
    omega
  | xld sl | xst sl =>
    simp only [Instr.opcode, Opcode.operands, encode, Instr.xld.injEq, Instr.xst.injEq, Fin.ext_iff,
      val_slotField_assemble]
    omega
  | derive | sign | signp | verify | clr => rfl

/-- A well-formed command decodes from its own word. -/
theorem decode_encode {i : Instr} (h : i.wf = true) : decode (encode i) = .ok i := by
  have hops := operands_encode i
  have hdec := decode_of_mask (encode_and_mask i) (hops.symm ▸ h)
  rwa [hops] at hdec

end Sys2Proof.Machine
end

section
/-!
PROOFS. The field-element unit (40_field.md): each function as an integer mod p, the frames of its commands, and the statements
about FADD to FLDC and the moves. The square root has a part of its own.
-/

namespace Sys2Proof.Machine

/-! ### Frames (R120): what a command that completes has left alone -/

section
variable (s : State) (e : ResultCode)

theorem unchanged_complete_writeF (d : FReg) (v : Fe) :
    Unchanged { f := fun r => r = d } s ((s.writeF d v).complete e) := by
  constructor <;> simp +contextual

theorem unchanged_complete_writeP (d : PReg) (v : Point) :
    Unchanged { p := fun r => r = d } s ((s.writeP d v).complete e) := by
  constructor <;> simp +contextual

theorem unchanged_complete_writeEq (b : Bool) : Unchanged { eq := true } s ((s.writeEq b).complete e) := by
  constructor <;> simp

theorem unchanged_complete_writeEven (b : Bool) : Unchanged { even := true } s ((s.writeEven b).complete e) := by
  constructor <;> simp

end

/-! ### The functions as integers mod p (R121 to R130) -/

theorem val_fadd (x y : Fe) : (fadd x y).val = (x.val + y.val) % primeP := rfl

theorem val_fmul (x y : Fe) : (fmul x y).val = x.val * y.val % primeP := rfl

theorem val_fsqr (x : Fe) : (fsqr x).val = x.val ^ 2 % primeP := by
  rw [fsqr, val_fmul, pow_two]

theorem val_fsub (x y : Fe) : ((fsub x y).val : Int) = ((x.val : Int) - y.val) % primeP := by
  have hle : y.val ≤ x.val + primeP := y.isLt.le.trans (Nat.le_add_left _ _)
  have hdiff : ((x.val + primeP - y.val : Nat) : Int) = (x.val : Int) - y.val + primeP := by
    omega
  rw [fsub, val_ofNat, Int.natCast_mod, hdiff, Int.add_emod_right]

theorem val_fneg (x : Fe) : ((fneg x).val : Int) = (-(x.val : Int)) % primeP := by
  have hdiff : ((primeP - x.val : Nat) : Int) = -(x.val : Int) + primeP := by
    omega
  rw [fneg, val_ofNat, Int.natCast_mod, hdiff, Int.add_emod_right]

/-- p is odd, so x and p - x have different parities. -/
theorem val_fneg_parity {x : Fe} (h : x.val ≠ 0) : (fneg x).val % 2 ≠ x.val % 2 := by
  have hodd : primeP % 2 = 1 := by decide
  have hval : (fneg x).val = primeP - x.val := by
    rw [fneg, val_ofNat, Nat.mod_eq_of_lt (by omega)]
  omega

theorem toZ_finv_mul {x : Fe} (h : x.val ≠ 0) : Fe.toZ x * Fe.toZ (finv x) = 1 := by
  have : Fact primeP.Prime := ⟨Laws.primeP_prime⟩
  have hne : Fe.toZ x ≠ 0 := mt toZ_eq_zero.1 h
  have hexp : primeP - 2 + 1 = primeP - 1 := by decide
  rw [toZ_finv, ← pow_succ', hexp, ZMod.pow_card_sub_one_eq_one hne]

theorem finv_of_zero {x : Fe} (h : x.val = 0) : (finv x).val = 0 := by
  have hexp : primeP - 2 ≠ 0 := by decide
  rw [← toZ_eq_zero, toZ_finv, toZ_eq_zero.2 h, zero_pow hexp]

/-- The inverse law on canonical integers. -/
theorem val_mul_finv {x : Fe} (h : x.val ≠ 0) : x.val * (finv x).val % primeP = 1 := by
  have hone : fmul x (finv x) = Fe.ofNat 1 := by
    apply toZ_injective
    rw [toZ_fmul, toZ_finv_mul h, toZ_ofNat, Nat.cast_one]
  rw [← val_fmul, hone]
  decide

/-- x^0 = 1 for every x, 0 included. -/
theorem fexp_exponent_zero (x : Fe) : fexp x 0 = Fe.ofNat 1 := by
  apply toZ_injective
  rw [toZ_fexp x (by positivity), pow_zero, toZ_ofNat, Nat.cast_one]

/-! ### The comparator (R129) -/

/-- The accumulated difference is 0 exactly when the numbers agree on all the bits of the limbs. -/
theorem limbDifference_eq_zero_iff (width n x y : Nat) :
    limbDifference width n x y = 0 ↔ x % 2 ^ (width * n) = y % 2 ^ (width * n) := by
  induction n generalizing x y with
  | zero => simp [limbDifference, Nat.mod_one]
  | succ n ih =>
    have hsplit (z : Nat) : z % 2 ^ (width * (n + 1)) =
        z % 2 ^ width + 2 ^ width * (z / 2 ^ width % 2 ^ (width * n)) := by
      rw [Nat.mul_succ, Nat.add_comm, pow_add, Nat.mod_mul]
    have hlow (z : Nat) : z % 2 ^ (width * (n + 1)) % 2 ^ width = z % 2 ^ width :=
      Nat.mod_mod_of_dvd z (pow_dvd_pow 2 (Nat.le_mul_of_pos_right width n.succ_pos))
    have hhigh (z : Nat) : z % 2 ^ (width * (n + 1)) / 2 ^ width = z / 2 ^ width % 2 ^ (width * n) := by
      rw [hsplit, Nat.add_mul_div_left _ _ (by positivity), Nat.div_eq_of_lt (Nat.mod_lt _ (by positivity)), Nat.zero_add]
    rw [limbDifference, Nat.or_eq_zero_iff, Nat.xor_eq_zero_iff, ih]
    constructor
    · rintro ⟨hl, hh⟩
      rw [hsplit, hsplit, hl, hh]
    · intro h
      exact ⟨by rw [← hlow x, h, hlow], by rw [← hhigh x, h, hhigh]⟩

/-- Limbs that cover the 255 bits decide equality of canonical integers. -/
theorem limbDifference_val_eq_zero_iff {width n : Nat} (x y : Fe) (h : 255 ≤ width * n) :
    limbDifference width n x.val y.val = 0 ↔ feq x y = true := by
  have hfits (z : Fe) : z.val % 2 ^ (width * n) = z.val :=
    Nat.mod_eq_of_lt (z.isLt.trans (lt_of_lt_of_le (by decide : primeP < 2 ^ 255) (Nat.pow_le_pow_right (by decide) h)))
  rw [limbDifference_eq_zero_iff, hfits, hfits, feq, decide_eq_true_iff, Fin.ext_iff]

/-! ### The obligations -/

/-- Settles O17: the sum is reduced once. -/
theorem fieldAdditionResult : Obligations.FieldAdditionResult := by
  unfold Obligations.FieldAdditionResult
  intro d a b s
  refine ⟨decode_encode (i := .fadd d a b) rfl, _, rfl, ended_complete _ _, unchanged_complete_writeF s _ d _, ?_⟩
  rw [readF_complete, readF_writeF_same, val_fadd]

/-- Settles O18: adding p before the subtraction does not change the residue. -/
theorem fieldSubtractionResult : Obligations.FieldSubtractionResult := by
  unfold Obligations.FieldSubtractionResult
  intro d a b s
  refine ⟨decode_encode (i := .fsub d a b) rfl, _, rfl, ended_complete _ _, unchanged_complete_writeF s _ d _, ?_⟩
  rw [readF_complete, readF_writeF_same, val_fsub]

/-- Settles O19: the residue of the negative, and the parity because p is odd. -/
theorem fieldNegationResult : Obligations.FieldNegationResult := by
  unfold Obligations.FieldNegationResult
  intro d a s
  refine ⟨decode_encode (i := .fneg d a) rfl, _, rfl, ended_complete _ _, unchanged_complete_writeF s _ d _, ?_⟩
  rw [readF_complete, readF_writeF_same]
  exact ⟨val_fneg _, val_fneg_parity⟩

/-- Settles O20: the full product is reduced once. -/
theorem fieldMultiplicationResult : Obligations.FieldMultiplicationResult := by
  unfold Obligations.FieldMultiplicationResult
  intro d a b s
  refine ⟨decode_encode (i := .fmul d a b) rfl, _, rfl, ended_complete _ _, unchanged_complete_writeF s _ d _, ?_⟩
  rw [readF_complete, readF_writeF_same, val_fmul]

/-- Settles O21: FSQR is FMUL of one source by itself. -/
theorem fieldSquaringResult : Obligations.FieldSquaringResult := by
  unfold Obligations.FieldSquaringResult
  intro d a s
  refine ⟨decode_encode (i := .fsqr d a) rfl, rfl, _, rfl, ended_complete _ _, unchanged_complete_writeF s _ d _, ?_⟩
  rw [readF_complete, readF_writeF_same, val_fsqr]

/-- Settles O22: Fermat's little theorem gives the inverse law. -/
theorem fieldInversionResult : Obligations.FieldInversionResult := by
  unfold Obligations.FieldInversionResult
  intro d a s
  refine ⟨decode_encode (i := .finv d a) rfl, _, rfl, ended_complete _ _, unchanged_complete_writeF s _ d _, ?_⟩
  rw [readF_complete, readF_writeF_same]
  exact ⟨toZ_finv _, finv_of_zero, val_mul_finv⟩

/-- Settles O23: the loop runs over all 512 bits of K. -/
theorem fieldExponentiationResult : Obligations.FieldExponentiationResult := by
  unfold Obligations.FieldExponentiationResult
  intro d a s
  refine ⟨decode_encode (i := .fexp d a) rfl, _, rfl, ended_complete _ _, unchanged_complete_writeF s _ d _, ?_⟩
  rw [readF_complete, readF_writeF_same]
  have hlt : s.k.toNat < 2 ^ 512 := by bv_omega
  refine ⟨toZ_fexp _ hlt, fun hk => ?_⟩
  have hzero : s.k.toNat = 0 := by rw [hk, BitVec.ofNat_eq_ofNat, BitVec.toNat_zero]
  rw [hzero, fexp_exponent_zero]
  decide

/-- Settles O25: FEQ compares canonical integers, as the limb comparator does whatever the limbs; FPAR reads bit 0. -/
theorem fieldComparisonAndParityResult : Obligations.FieldComparisonAndParityResult := by
  unfold Obligations.FieldComparisonAndParityResult
  refine ⟨fun a b s => ?_, fun width n x y => limbDifference_val_eq_zero_iff x y, fun a s => ?_⟩
  · refine ⟨decode_encode (i := .feq a b) rfl, _, rfl, ended_complete _ _, unchanged_complete_writeEq s _ _, ?_⟩
    rw [complete_eq, writeEq_eq, feq, decide_eq_true_iff, Fin.ext_iff]
  · refine ⟨decode_encode (i := .fpar a) rfl, _, rfl, ended_complete _ _, unchanged_complete_writeEven s _ _, ?_⟩
    rw [complete_even, writeEven_even, feven, decide_eq_true_iff]

/-- Settles O26: the value written is the one read, one field element or all four coordinates. -/
theorem movesCopyTheirSource : Obligations.MovesCopyTheirSource := by
  unfold Obligations.MovesCopyTheirSource
  refine ⟨fun d a s => ?_, fun d a s => ?_⟩
  · refine ⟨decode_encode (i := .fmov d a) rfl, _, rfl, ended_complete _ _, unchanged_complete_writeF s _ d _, ?_⟩
    rw [readF_complete, readF_writeF_same]
  · refine ⟨decode_encode (i := .pmov d a) rfl, _, rfl, ended_complete _ _, unchanged_complete_writeP s _ d _, ?_⟩
    rw [readP_complete, readP_writeP_same]

end Sys2Proof.Machine
end

section
/-!
PROOFS. Square roots (40_field.md R128) and the constants of FLDC (R132). As p mod 8 = 5, of a square z the power z^((p+3)/8)
squares to z or to -z; the factor SQRTM1 turns the second case into the first.
-/

namespace Sys2Proof.Machine

/-! ### The candidates as powers (10_state.md R33) -/

/-- The fixed exponents of the candidates have at most 255 bits. -/
theorem toZ_fexp_of_lt_two_pow_255 (x : Fe) {n : Nat} (h : n < 2 ^ 255) : Fe.toZ (fexp x n) = Fe.toZ x ^ n :=
  toZ_fexp x (by omega)

/-- SQRTM1 = 2^((p-1)/4). -/
theorem toZ_sqrtm1_eq_pow : Fe.toZ sqrtm1 = 2 ^ ((primeP - 1) / 4) := by
  have heval : sqrtm1 = fexp (Fe.ofNat 2) ((primeP - 1) / 4) := by decide +kernel
  rw [heval, toZ_fexp_of_lt_two_pow_255 _ (by decide), toZ_ofNat, Nat.cast_ofNat]

theorem toZ_first_candidate (x : Fe) : Fe.toZ (fexp x ((primeP + 3) / 8)) = Fe.toZ x ^ ((primeP + 3) / 8) :=
  toZ_fexp_of_lt_two_pow_255 x (by decide)

/-! ### Squares mod p -/

section
variable {z : ZMod primeP}

/-- Euler's criterion at y^2, one half further: (y^2)^((p-1)/4) is 1 or -1. -/
theorem pow_quarter_of_isSquare (h : IsSquare z) (hz : z ≠ 0) :
    z ^ ((primeP - 1) / 4) = 1 ∨ z ^ ((primeP - 1) / 4) = -1 := by
  have : Fact primeP.Prime := ⟨Laws.primeP_prime⟩
  obtain ⟨y, rfl⟩ := h
  have hy : y ≠ 0 := left_ne_zero_of_mul hz
  have hexp : 2 * ((primeP - 1) / 4) + 2 * ((primeP - 1) / 4) = primeP - 1 := by decide
  have hone : (y * y) ^ ((primeP - 1) / 4) * (y * y) ^ ((primeP - 1) / 4) = 1 := by
    rw [← pow_two y, ← pow_mul, ← pow_add, hexp, ZMod.pow_card_sub_one_eq_one hy]
  exact mul_self_eq_one_iff.1 hone

theorem sq_first_candidate_of_isSquare (h : IsSquare z) :
    (z ^ ((primeP + 3) / 8)) ^ 2 = z ∨ (z ^ ((primeP + 3) / 8)) ^ 2 = -z := by
  have hexp : (primeP + 3) / 8 * 2 = (primeP - 1) / 4 + 1 := by decide
  rw [← pow_mul, hexp, pow_succ]
  by_cases hz : z = 0
  · exact .inl (by rw [hz, mul_zero])
  · rcases pow_quarter_of_isSquare h hz with hone | hneg
    · exact .inl (by rw [hone, one_mul])
    · exact .inr (by rw [hneg, neg_one_mul])

end

/-! ### The root (R128) -/

/-- `r` squares to `x` and is the first candidate that does. -/
structure IsChosenRoot (x r : Fe) : Prop where
  square : Fe.toZ r ^ 2 = Fe.toZ x
  first : (Fe.toZ x ^ ((primeP + 3) / 8)) ^ 2 = Fe.toZ x → Fe.toZ r = Fe.toZ x ^ ((primeP + 3) / 8)
  second : (Fe.toZ x ^ ((primeP + 3) / 8)) ^ 2 ≠ Fe.toZ x →
    Fe.toZ r = Fe.toZ x ^ ((primeP + 3) / 8) * 2 ^ ((primeP - 1) / 4)

theorem IsChosenRoot.isSquare {x r : Fe} (h : IsChosenRoot x r) : IsSquare (Fe.toZ x) :=
  ⟨Fe.toZ r, by rw [← h.square, pow_two]⟩

/-- Everything `fsqrt` can answer: the chosen root and its negative, or nothing when there is no root. -/
theorem fsqrt_cases (x : Fe) :
    (∃ r, fsqrt x = some (r, fneg r) ∧ IsChosenRoot x r) ∨ (fsqrt x = none ∧ ¬IsSquare (Fe.toZ x)) := by
  have hc1 := toZ_first_candidate x
  have hc2 : Fe.toZ (fmul (fexp x ((primeP + 3) / 8)) sqrtm1) ^ 2 = -(Fe.toZ x ^ ((primeP + 3) / 8)) ^ 2 := by
    rw [toZ_fmul, mul_pow, hc1, toZ_sqrtm1, mul_neg_one]
  have hok1 : feq (fsqr (fexp x ((primeP + 3) / 8))) x = true ↔ (Fe.toZ x ^ ((primeP + 3) / 8)) ^ 2 = Fe.toZ x := by
    rw [feq_iff, toZ_fsqr, hc1]
  have hok2 : feq (fsqr (fmul (fexp x ((primeP + 3) / 8)) sqrtm1)) x = true ↔
      -(Fe.toZ x ^ ((primeP + 3) / 8)) ^ 2 = Fe.toZ x := by
    rw [feq_iff, toZ_fsqr, hc2]
  by_cases h1 : (Fe.toZ x ^ ((primeP + 3) / 8)) ^ 2 = Fe.toZ x
  · refine .inl ⟨fexp x ((primeP + 3) / 8), by simp [fsqrt, hok1.2 h1], ?_⟩
    exact ⟨by rw [hc1, h1], fun _ => hc1, fun hne => absurd h1 hne⟩
  · have hno1 := Bool.eq_false_iff.2 (mt hok1.1 h1)
    by_cases h2 : -(Fe.toZ x ^ ((primeP + 3) / 8)) ^ 2 = Fe.toZ x
    · refine .inl ⟨fmul (fexp x ((primeP + 3) / 8)) sqrtm1, by simp [fsqrt, hno1, hok2.2 h2], ?_⟩
      exact ⟨hc2.trans h2, fun h => absurd h h1, fun _ => by rw [toZ_fmul, hc1, toZ_sqrtm1_eq_pow]⟩
    · have hno2 := Bool.eq_false_iff.2 (mt hok2.1 h2)
      refine .inr ⟨by simp [fsqrt, hno1, hno2], fun hsq => ?_⟩
      rcases sq_first_candidate_of_isSquare hsq with h | h
      · exact h1 h
      · exact h2 (by rw [h, neg_neg])

/-! ### The command -/

section
variable {s : State} {d e a : FReg}

theorem exec_fsqrt_of_some {r nr : Fe} (hne : d ≠ e) (h : fsqrt (s.readF a) = some (r, nr)) :
    exec (.fsqrt d e a) s = .next ((((s.writeF d r).writeF e nr).writeValid true).complete .ok) := by
  simp [exec, execFsqrt, hne, h]

theorem exec_fsqrt_of_none (hne : d ≠ e) (h : fsqrt (s.readF a) = none) :
    exec (.fsqrt d e a) s = .next ((s.writeValid false).complete .ok) := by
  simp [exec, execFsqrt, hne, h]

end

theorem unchanged_roots (s : State) (d e : FReg) (r nr : Fe) :
    Unchanged { f := fun i => i = d ∨ i = e, valid := true } s
      ((((s.writeF d r).writeF e nr).writeValid true).complete .ok) := by
  constructor <;> simp +contextual

theorem unchanged_no_root (s : State) (d e : FReg) :
    Unchanged { f := fun i => i = d ∨ i = e, valid := true } s ((s.writeValid false).complete .ok) := by
  constructor <;> simp

/-! ### The obligations -/

/-- Settles O24: with the two answers of `fsqrt`, VALID is 1 and the roots are written, or VALID is 0 and no register is. -/
theorem squareRootResult : Obligations.SquareRootResult := by
  unfold Obligations.SquareRootResult
  intro d e a s hne
  refine ⟨decode_encode (i := .fsqrt d e a) (decide_eq_true hne), ?_⟩
  rcases fsqrt_cases (s.readF a) with ⟨r, hsome, hroot⟩ | ⟨hnone, hsquare⟩
  · refine ⟨_, exec_fsqrt_of_some hne hsome, ended_complete _ _, unchanged_roots s d e _ _, ?_⟩
    simp only [complete_valid, writeValid_valid, readF_complete, readF_writeValid, readF_writeF_same,
      readF_writeF_ne _ _ hne, true_iff, forall_const]
    exact ⟨hroot.isSquare, ⟨hroot.square, toZ_fneg r, hroot.first, hroot.second⟩, by simp⟩
  · refine ⟨_, exec_fsqrt_of_none hne hnone, ended_complete _ _, unchanged_no_root s d e, ?_⟩
    simp [hsquare]

/-- Settles O27: each row's number and integer are those of its constant; d and SQRTM1 meet their equations. -/
theorem fieldConstantsLoad : Obligations.FieldConstantsLoad := by
  unfold Obligations.FieldConstantsLoad
  refine ⟨fun d s row hrow => ?_, toZ_curveD, toZ_sqrtm1_eq_pow⟩
  obtain ⟨hcode, hvalue⟩ : row.2.1.code = row.1 ∧ (FieldConst.value row.2.1).val = row.2.2 := by
    revert row
    decide
  rw [← hcode, ← hvalue]
  refine ⟨decode_encode (i := .fldc d row.2.1) rfl, _, rfl, ended_complete _ _, unchanged_complete_writeF s _ d _, ?_⟩
  rw [readF_complete, readF_writeF_same]

end Sys2Proof.Machine
end

section
/-!
PROOFS. Affine points (41_point.md R162 to R169): the affine point of a tuple, the tuple of an affine point, the curve check, and
the statements about PNEG, PLDC, PEQ, PAFF and PFAF. Decoding and encoding have a part of their own.
-/

namespace Sys2Proof.Machine

/-! ### The curve coefficient is no square (R165, R169) -/

/-- Euler's criterion: d^((p-1)/2) = -1. -/
theorem not_isSquare_curveD : ¬IsSquare (Fe.toZ curveD) := by
  have : Fact primeP.Prime := ⟨Laws.primeP_prime⟩
  have : Fact (2 < primeP) := ⟨by decide⟩
  have hne : Fe.toZ curveD ≠ 0 := mt toZ_eq_zero.1 (by decide)
  have heval : fexp curveD (primeP / 2) = fneg (Fe.ofNat 1) := by decide +kernel
  have hpow : Fe.toZ curveD ^ (primeP / 2) = -1 := by
    rw [← toZ_fexp_of_lt_two_pow_255 _ (by decide), heval, toZ_fneg, toZ_ofNat, Nat.cast_one]
  rw [ZMod.euler_criterion primeP hne, hpow]
  exact ZMod.neg_one_ne_one

/-- -1/d is no square, since -1 is one and d is not: the denominator of R170 is never 0. -/
theorem curveD_mul_sq_add_one_ne_zero (z : ZMod primeP) : Fe.toZ curveD * z ^ 2 + 1 ≠ 0 := by
  have : Fact primeP.Prime := ⟨Laws.primeP_prime⟩
  intro h
  have hz : z ≠ 0 := by
    rintro rfl
    simp at h
  have hquot : Fe.toZ curveD = (Fe.toZ sqrtm1 / z) ^ 2 := by
    rw [div_pow, toZ_sqrtm1, eq_div_iff (pow_ne_zero 2 hz)]
    exact eq_neg_of_add_eq_zero_left h
  exact not_isSquare_curveD (hquot ▸ IsSquare.sq _)

/-! ### The curve check (R169) -/

theorem onCurve_iff (x y : Fe) : onCurve x y = true ↔ CurveEq (Fe.toZ x) (Fe.toZ y) := by
  rw [onCurve, feq_iff, CurveEq]
  simp [sub_eq_neg_add, mul_assoc]

/-- No point of the curve has equal coordinates. -/
theorem not_curveEq_self (z : ZMod primeP) : ¬CurveEq z z := by
  rw [CurveEq, neg_add_cancel]
  intro h
  apply curveD_mul_sq_add_one_ne_zero (z ^ 2)
  linear_combination -h

/-! ### The tuple of an affine point (R169) -/

/-- The tuple (x, y, x·y, 1), which PFAF and PDEC write and the constants of PLDC are. -/
def Point.ofAffine (x y : Fe) : Point := ⟨x, y, fmul x y, Fe.ofNat 1⟩

theorem ofAffine_z_val (x y : Fe) : (Point.ofAffine x y).Z.val = 1 := by
  rw [Point.ofAffine, val_ofNat]
  decide

theorem represents_ofAffine {x y : Fe} (h : CurveEq (Fe.toZ x) (Fe.toZ y)) :
    Represents (Point.ofAffine x y) (Fe.toZ x) (Fe.toZ y) where
  z_ne := mt toZ_eq_zero.1 (by rw [ofAffine_z_val]; decide)
  x_eq := by simp [Point.ofAffine]
  y_eq := by simp [Point.ofAffine]
  t_eq := by simp [Point.ofAffine]
  curve := h

theorem pfaf_of_curveEq {x y : Fe} (h : CurveEq (Fe.toZ x) (Fe.toZ y)) : pfaf x y = some (Point.ofAffine x y) :=
  if_pos ((onCurve_iff x y).2 h)

theorem pfaf_of_not_curveEq {x y : Fe} (h : ¬CurveEq (Fe.toZ x) (Fe.toZ y)) : pfaf x y = none :=
  if_neg (mt (onCurve_iff x y).1 h)

/-! ### The affine point of a tuple (R166, R168) -/

section
variable {P Q : Point}

theorem toZ_paff_mul_z (h : P.Z.val ≠ 0) :
    Fe.toZ (paff P).1 * Fe.toZ P.Z = Fe.toZ P.X ∧ Fe.toZ (paff P).2 * Fe.toZ P.Z = Fe.toZ P.Y := by
  have hinv := toZ_finv_mul h
  simp only [paff, toZ_fmul]
  constructor
  · linear_combination Fe.toZ P.X * hinv
  · linear_combination Fe.toZ P.Y * hinv

theorem paff_of_z_zero (h : P.Z.val = 0) : (paff P).1.val = 0 ∧ (paff P).2.val = 0 := by
  have hinv := toZ_eq_zero.2 (finv_of_zero h)
  simp only [← toZ_eq_zero, paff, toZ_fmul, hinv, mul_zero, and_self]

/-- The affine point is the only pair with x·Z = X and y·Z = Y. -/
theorem paff_eq_of_mul_z {x y : Fe} (h : P.Z.val ≠ 0) (hx : Fe.toZ x * Fe.toZ P.Z = Fe.toZ P.X)
    (hy : Fe.toZ y * Fe.toZ P.Z = Fe.toZ P.Y) : paff P = (x, y) := by
  have : Fact primeP.Prime := ⟨Laws.primeP_prime⟩
  have hz : Fe.toZ P.Z ≠ 0 := mt toZ_eq_zero.1 h
  obtain ⟨hx', hy'⟩ := toZ_paff_mul_z h
  exact Prod.ext (toZ_injective (mul_right_cancel₀ hz (hx'.trans hx.symm)))
    (toZ_injective (mul_right_cancel₀ hz (hy'.trans hy.symm)))

theorem represents_paff {x y : ZMod primeP} (h : Represents P x y) :
    Fe.toZ (paff P).1 = x ∧ Fe.toZ (paff P).2 = y := by
  have : Fact primeP.Prime := ⟨Laws.primeP_prime⟩
  obtain ⟨hx, hy⟩ := toZ_paff_mul_z (mt toZ_eq_zero.2 h.z_ne)
  exact ⟨mul_right_cancel₀ h.z_ne (hx.trans h.x_eq), mul_right_cancel₀ h.z_ne (hy.trans h.y_eq)⟩

/-- Equal quotients are equal cross products. -/
theorem eq_iff_cross_mul_eq {x₁ x₂ X₁ X₂ Z₁ Z₂ : ZMod primeP} (hz₁ : Z₁ ≠ 0) (hz₂ : Z₂ ≠ 0) (h₁ : x₁ * Z₁ = X₁)
    (h₂ : x₂ * Z₂ = X₂) : x₁ = x₂ ↔ X₁ * Z₂ = X₂ * Z₁ := by
  have : Fact primeP.Prime := ⟨Laws.primeP_prime⟩
  rw [← h₁, ← h₂, mul_right_comm x₂, mul_left_inj' hz₂, mul_left_inj' hz₁]

theorem peq_iff (hP : P.Z.val ≠ 0) (hQ : Q.Z.val ≠ 0) : peq P Q = true ↔
    Fe.toZ P.X * Fe.toZ Q.Z = Fe.toZ Q.X * Fe.toZ P.Z ∧ Fe.toZ P.Y * Fe.toZ Q.Z = Fe.toZ Q.Y * Fe.toZ P.Z := by
  have hzP : Fe.toZ P.Z ≠ 0 := mt toZ_eq_zero.1 hP
  have hzQ : Fe.toZ Q.Z ≠ 0 := mt toZ_eq_zero.1 hQ
  obtain ⟨hxP, hyP⟩ := toZ_paff_mul_z hP
  obtain ⟨hxQ, hyQ⟩ := toZ_paff_mul_z hQ
  rw [peq, Bool.and_eq_true, feq_iff, feq_iff, eq_iff_cross_mul_eq hzP hzQ hxP hxQ, eq_iff_cross_mul_eq hzP hzQ hyP hyQ]

end

/-! ### Negation and constants (R162, R164) -/

@[simp] theorem fneg_fneg (x : Fe) : fneg (fneg x) = x :=
  toZ_injective (by rw [toZ_fneg, toZ_fneg, neg_neg])

@[simp] theorem pneg_pneg (P : Point) : pneg (pneg P) = P := by
  simp only [pneg, fneg_fneg]

/-- Both constants of PLDC are affine points of the curve. -/
theorem exists_pointConst_eq_ofAffine (c : PointConst) :
    ∃ x y, PointConst.value c = Point.ofAffine x y ∧ CurveEq (Fe.toZ x) (Fe.toZ y) := by
  cases c with
  | neutral => exact ⟨Fe.ofNat 0, Fe.ofNat 1, by decide +kernel, (onCurve_iff _ _).1 (by decide +kernel)⟩
  | base => exact ⟨baseX, baseY, by decide +kernel, (onCurve_iff _ _).1 (by decide +kernel)⟩

theorem validPoint_pointConst (c : PointConst) : ValidPoint (PointConst.value c) := by
  obtain ⟨x, y, heq, hcurve⟩ := exists_pointConst_eq_ofAffine c
  exact ⟨Fe.toZ x, Fe.toZ y, heq ▸ represents_ofAffine hcurve⟩

/-! ### The commands -/

section
variable (s : State) (e : ResultCode)

theorem unchanged_complete_writeF_writeF (d₁ d₂ : FReg) (v₁ v₂ : Fe) :
    Unchanged { f := fun r => r = d₁ ∨ r = d₂ } s (((s.writeF d₁ v₁).writeF d₂ v₂).complete e) := by
  constructor <;> simp +contextual

theorem unchanged_complete_writeP_writeValid (d : PReg) (P : Point) (b : Bool) :
    Unchanged { p := fun r => r = d, valid := true } s (((s.writeP d P).writeValid b).complete e) := by
  constructor <;> simp +contextual

/-- Without a point to write, the point register named is left alone as well. -/
theorem unchanged_complete_writeValid (d : PReg) (b : Bool) :
    Unchanged { p := fun r => r = d, valid := true } s ((s.writeValid b).complete e) := by
  constructor <;> simp

end

theorem exec_paff {d e : FReg} (a : PReg) (s : State) (h : d ≠ e) :
    exec (.paff d e a) s = .next (((s.writeF d (paff (s.readP a)).1).writeF e (paff (s.readP a)).2).complete .ok) := by
  simp [exec, execPaff, h]

section
variable {s : State} {a b : FReg} (d : PReg)

theorem exec_pfaf_of_some {P : Point} (h : pfaf (s.readF a) (s.readF b) = some P) :
    exec (.pfaf d a b) s = .next (((s.writeP d P).writeValid true).complete .ok) :=
  (execPfaf_eq_elim d a b s).trans (by rw [h, Option.elim_some])

theorem exec_pfaf_of_none (h : pfaf (s.readF a) (s.readF b) = none) :
    exec (.pfaf d a b) s = .next ((s.writeValid false).complete .ok) :=
  (execPfaf_eq_elim d a b s).trans (by rw [h, Option.elim_none])

end

/-! ### The obligations -/

/-- Settles O32: with Z not 0 in both, equal affine coordinates are equal cross products. -/
theorem pointEqualityComparesAffinePoints : Obligations.PointEqualityComparesAffinePoints := by
  unfold Obligations.PointEqualityComparesAffinePoints
  intro a b s
  refine ⟨decode_encode (i := .peq a b) rfl, _, rfl, ended_complete _ _, unchanged_complete_writeEq s _ _, ?_⟩
  rw [complete_eq, writeEq_eq]
  exact peq_iff

/-- Settles O34: the curve check decides which of the two answers is given; a pair x = y is on no point of the curve, as -1/d is
no square. -/
theorem pointFromAffineResult : Obligations.PointFromAffineResult := by
  unfold Obligations.PointFromAffineResult
  intro d a b s
  refine ⟨decode_encode (i := .pfaf d a b) rfl, ?_⟩
  by_cases hcurve : CurveEq (Fe.toZ (s.readF a)) (Fe.toZ (s.readF b))
  · refine ⟨_, exec_pfaf_of_some d (pfaf_of_curveEq hcurve), ended_complete _ _,
      unchanged_complete_writeP_writeValid s _ d _ _, ?_⟩
    simp only [complete_valid, writeValid_valid, readP_complete, readP_writeValid, readP_writeP_same]
    refine ⟨iff_of_true trivial hcurve, fun _ => ⟨rfl, rfl, toZ_fmul _ _, ofAffine_z_val _ _⟩, by simp, fun hab => ?_⟩
    exact absurd (hab ▸ hcurve) (not_curveEq_self _)
  · refine ⟨_, exec_pfaf_of_none d (pfaf_of_not_curveEq hcurve), ended_complete _ _,
      unchanged_complete_writeValid s _ d _, ?_⟩
    simp [hcurve]

/-- Settles O30: in X and T the negative of the residue, which negated again is the residue. -/
theorem pointNegationFormula : Obligations.PointNegationFormula := by
  unfold Obligations.PointNegationFormula
  intro d a s
  refine ⟨decode_encode (i := .pneg d a) rfl, _, rfl, ended_complete _ _, unchanged_complete_writeP s _ d _, ?_⟩
  rw [readP_complete, readP_writeP_same]
  exact ⟨toZ_fneg _, rfl, toZ_fneg _, rfl, pneg_pneg _⟩

/-- Settles O31: each row's number and integers are those of its constant, and both constants are on the curve. -/
theorem pointConstantsLoad : Obligations.PointConstantsLoad := by
  unfold Obligations.PointConstantsLoad
  intro d s row hrow
  obtain ⟨hcode, hX, hY, hT, hZ⟩ : row.2.1.code = row.1 ∧ (PointConst.value row.2.1).X.val = row.2.2.1 ∧
      (PointConst.value row.2.1).Y.val = row.2.2.2.1 ∧ (PointConst.value row.2.1).T.val = row.2.2.2.2 ∧
      (PointConst.value row.2.1).Z.val = 1 := by
    revert row
    decide
  rw [← hcode, ← hX, ← hY, ← hT]
  refine ⟨decode_encode (i := .pldc d row.2.1) rfl, _, rfl, ended_complete _ _, unchanged_complete_writeP s _ d _, ?_⟩
  rw [readP_complete, readP_writeP_same]
  exact ⟨rfl, rfl, rfl, hZ, validPoint_pointConst _⟩

/-- Settles O33: the two products by 1/Z, which the model takes as 0 for Z = 0. -/
theorem pointToAffineResult : Obligations.PointToAffineResult := by
  unfold Obligations.PointToAffineResult
  intro d e a s hne
  refine ⟨decode_encode (i := .paff d e a) (decide_eq_true hne), _, exec_paff a s hne, ended_complete _ _,
    unchanged_complete_writeF_writeF s _ d e _ _, ?_⟩
  rw [readF_complete, readF_complete, readF_writeF_same, readF_writeF_ne _ _ hne, readF_writeF_same]
  exact ⟨toZ_paff_mul_z, paff_of_z_zero⟩

end Sys2Proof.Machine
end

section
/-!
PROOFS. Decoding and encoding points (41_point.md R170, R171): what the 32 bytes of a slot stand for, everything `pdec` can answer,
and the statements about PDEC and PENC.
-/

namespace Sys2Proof.Machine

/-! ### The integer of a slot (00_scope.md R8, 20_memory.md R62) -/

theorem leInt_readBytes (m : Memory) (a n : Nat) :
    leInt (Memory.readBytes m a n) = ∑ i ∈ Finset.range n, (Memory.read m (a + i)).toNat * 256 ^ i := by
  induction n generalizing a with
  | zero => rfl
  | succ n ih =>
    rw [Memory.readBytes, leInt, ih, Finset.sum_range_succ', Finset.mul_sum, Nat.add_comm]
    congr 1
    · refine Finset.sum_congr rfl fun i _ => ?_
      rw [Nat.add_assoc, Nat.add_comm 1 i]
      ring
    · simp

theorem leInt_readSlot (s : State) (sl : Slot) : leInt (s.readSlot sl) =
    ∑ i ∈ Finset.range 32, (Memory.read s.mem (slotOffset sl.val + i)).toNat * 256 ^ i :=
  leInt_readBytes s.mem (slotOffset sl.val) 32

/-- The sign bit of 32 bytes, as a number. -/
theorem toNat_testBit_leInt {b : List Byte} (h : b.length = 32) : ((leInt b).testBit 255).toNat = leInt b / 2 ^ 255 := by
  have hlt := leInt_lt b
  rw [h] at hlt
  rw [Nat.testBit_eq_decide_div_mod_eq, Nat.mod_eq_of_lt (by omega)]
  have htop : leInt b / 2 ^ 255 = 0 ∨ leInt b / 2 ^ 255 = 1 := by omega
  rcases htop with hbit | hbit <;> rw [hbit] <;> rfl

/-! ### The square of x (R170) -/

/-- The curve equation solved for x^2; its denominator is never 0. -/
theorem curveEq_iff_sq_eq_recoverXX (x : ZMod primeP) (y : Fe) :
    CurveEq x (Fe.toZ y) ↔ x ^ 2 = Fe.toZ (recoverXX y) := by
  have : Fact primeP.Prime := ⟨Laws.primeP_prime⟩
  let w := fadd (fmul curveD (fsqr y)) (Fe.ofNat 1)
  have hw : Fe.toZ w = Fe.toZ curveD * Fe.toZ y ^ 2 + 1 := by simp [w]
  have hne : Fe.toZ w ≠ 0 := hw ▸ curveD_mul_sq_add_one_ne_zero _
  have hinv := toZ_finv_mul (mt toZ_eq_zero.2 hne)
  have hxx : Fe.toZ (recoverXX y) * Fe.toZ w = Fe.toZ y ^ 2 - 1 := by
    simp only [recoverXX, toZ_fmul, toZ_fsub, toZ_fsqr, toZ_ofNat, Nat.cast_one]
    linear_combination (Fe.toZ y ^ 2 - 1) * hinv
  rw [← mul_left_inj' hne, hxx, hw, CurveEq]
  constructor
  · intro h
    linear_combination -h
  · intro h
    linear_combination -h

/-- Parity tells the two roots apart. -/
theorem eq_of_sq_eq_of_parity_eq {x x' : Fe} (hsq : Fe.toZ x ^ 2 = Fe.toZ x' ^ 2) (hpar : x.val % 2 = x'.val % 2) :
    x = x' := by
  have : Fact primeP.Prime := ⟨Laws.primeP_prime⟩
  rcases sq_eq_sq_iff_eq_or_eq_neg.1 hsq with h | h
  · exact toZ_injective h
  · have hneg : x = fneg x' := toZ_injective (h.trans (toZ_fneg x').symm)
    by_cases hzero : x'.val = 0
    · apply toZ_injective
      rw [h, toZ_eq_zero.2 hzero, neg_zero]
    · exact absurd (hneg ▸ hpar) (val_fneg_parity hzero)

/-! ### Decoding (R170) -/

/-- What the integer v of 32 bytes asks for: y in the low 255 bits, and on the curve with it an x of the parity of bit 255. -/
structure IsDecoding (v : Nat) (x y : Fe) : Prop where
  y_val : y.val = v % 2 ^ 255
  parity : x.val % 2 = v / 2 ^ 255
  curve : CurveEq (Fe.toZ x) (Fe.toZ y)

section
variable {v : Nat} {x y x' y' : Fe}

theorem IsDecoding.sq_eq (h : IsDecoding v x y) : Fe.toZ x ^ 2 = Fe.toZ (recoverXX (Fe.ofNat (v % 2 ^ 255))) := by
  rw [← h.y_val, ofNat_val]
  exact (curveEq_iff_sq_eq_recoverXX _ _).1 h.curve

theorem IsDecoding.unique (h : IsDecoding v x y) (h' : IsDecoding v x' y') : x = x' ∧ y = y' :=
  ⟨eq_of_sq_eq_of_parity_eq (h.sq_eq.trans h'.sq_eq.symm) (h.parity.trans h'.parity.symm),
    Fin.ext (h.y_val.trans h'.y_val.symm)⟩

/-- 0 has no odd root. -/
theorem IsDecoding.even_of_recoverXX_eq_zero (h : IsDecoding v x y)
    (hxx : Fe.toZ (recoverXX (Fe.ofNat (v % 2 ^ 255))) = 0) : v / 2 ^ 255 = 0 := by
  have : Fact primeP.Prime := ⟨Laws.primeP_prime⟩
  have hx : x.val = 0 := toZ_eq_zero.1 (sq_eq_zero_iff.1 (h.sq_eq.trans hxx))
  rw [← h.parity, hx]

end

/-- The form of R170: a canonical y, and an x for it. -/
theorem exists_isDecoding_iff (v : Nat) : (∃ x y, IsDecoding v x y) ↔
    v % 2 ^ 255 < primeP ∧ ∃ x : Fe, x.val % 2 = v / 2 ^ 255 ∧ CurveEq (Fe.toZ x) ((v % 2 ^ 255 : Nat) : ZMod primeP) := by
  constructor
  · rintro ⟨x, y, h⟩
    rw [← h.y_val]
    exact ⟨y.isLt, x, h.parity, h.curve⟩
  · rintro ⟨hlt, x, hpar, hcurve⟩
    exact ⟨x, Fe.ofNat (v % 2 ^ 255), Nat.mod_eq_of_lt hlt, hpar, by rwa [toZ_ofNat]⟩

theorem pdec_of_noncanonical {b : List Byte} (h : primeP ≤ leInt b % 2 ^ 255) : pdec b = none :=
  if_pos h

/-- The root of the parity that a sign bit asks for. -/
def signedRoot (r : Fe) (sign : Bool) : Fe := if r.val.testBit 0 = sign then r else fneg r

theorem toZ_signedRoot_sq (r : Fe) (sign : Bool) : Fe.toZ (signedRoot r sign) ^ 2 = Fe.toZ r ^ 2 := by
  rw [signedRoot]
  split
  · rfl
  · rw [toZ_fneg, neg_sq]

theorem testBit_zero_eq_iff (n : Nat) (b : Bool) : n.testBit 0 = b ↔ n % 2 = b.toNat := by
  cases b with
  | false => simp
  | true => simp

/-- Only the root 0 has no counterpart of the other parity. -/
theorem signedRoot_parity {r : Fe} {sign : Bool} (h : ¬(sign = true ∧ r.val = 0)) :
    (signedRoot r sign).val % 2 = sign.toNat := by
  rw [signedRoot]
  split
  · next heq => exact (testBit_zero_eq_iff _ _).1 heq
  · next hne =>
    have hpar : r.val % 2 ≠ sign.toNat := mt (testBit_zero_eq_iff _ _).2 hne
    have hzero : r.val ≠ 0 := by
      intro hr
      cases sign with
      | false => exact hpar (by rw [hr]; rfl)
      | true => exact h ⟨rfl, hr⟩
    have hflip := val_fneg_parity hzero
    have hsign := sign.toNat_lt
    omega

theorem feq_zero_iff (x : Fe) : feq x (Fe.ofNat 0) = true ↔ x.val = 0 := by
  rw [feq_iff, toZ_ofNat, Nat.cast_zero, toZ_eq_zero]

section
variable {b : List Byte} (hcanon : leInt b % 2 ^ 255 < primeP)
include hcanon

theorem pdec_of_no_root (hroot : fsqrt (recoverXX (Fe.ofNat (leInt b % 2 ^ 255))) = none) : pdec b = none := by
  simp only [pdec, if_neg hcanon.not_ge, hroot]

theorem pdec_of_root {r : Fe} (hroot : fsqrt (recoverXX (Fe.ofNat (leInt b % 2 ^ 255))) = some (r, fneg r)) :
    pdec b = if (leInt b).testBit 255 = true ∧ r.val = 0 then none
      else some (Point.ofAffine (signedRoot r ((leInt b).testBit 255)) (Fe.ofNat (leInt b % 2 ^ 255))) := by
  simp only [pdec, if_neg hcanon.not_ge, hroot, Bool.and_eq_true, feq_zero_iff, Point.ofAffine, signedRoot]

end

/-- Everything `pdec` can answer: the decoding its bytes ask for, or nothing when there is none. -/
theorem pdec_cases {b : List Byte} (h : b.length = 32) :
    (∃ x y, IsDecoding (leInt b) x y ∧ pdec b = some (Point.ofAffine x y)) ∨
      (pdec b = none ∧ ∀ x y, ¬IsDecoding (leInt b) x y) := by
  by_cases hcanon : leInt b % 2 ^ 255 < primeP
  case neg => exact .inr ⟨pdec_of_noncanonical (not_lt.1 hcanon), fun x y hdec => hcanon (hdec.y_val ▸ y.isLt)⟩
  have hsign := toNat_testBit_leInt h
  rcases fsqrt_cases (recoverXX (Fe.ofNat (leInt b % 2 ^ 255))) with ⟨r, hsome, hroot⟩ | ⟨hnone, hnosquare⟩
  case inr => exact .inr ⟨pdec_of_no_root hcanon hnone, fun x y hdec => hnosquare (hdec.sq_eq ▸ IsSquare.sq _)⟩
  have hanswer := pdec_of_root hcanon hsome
  by_cases hzero : (leInt b).testBit 255 = true ∧ r.val = 0
  · refine .inr ⟨hanswer.trans (if_pos hzero), fun x y hdec => ?_⟩
    have heven := hdec.even_of_recoverXX_eq_zero (by rw [← hroot.square, toZ_eq_zero.2 hzero.2, zero_pow two_ne_zero])
    rw [← hsign, hzero.1] at heven
    exact absurd heven (by decide)
  · refine .inl ⟨_, _, ⟨Nat.mod_eq_of_lt hcanon, (signedRoot_parity hzero).trans hsign, ?_⟩, hanswer.trans (if_neg hzero)⟩
    rw [curveEq_iff_sq_eq_recoverXX, toZ_signedRoot_sq, hroot.square]

/-- Bytes with a decoding decode to it. -/
theorem pdec_of_isDecoding {b : List Byte} {x y : Fe} (h : b.length = 32) (hdec : IsDecoding (leInt b) x y) :
    pdec b = some (Point.ofAffine x y) := by
  rcases pdec_cases h with ⟨x', y', hdec', hsome⟩ | ⟨-, hno⟩
  · obtain ⟨rfl, rfl⟩ := hdec.unique hdec'
    exact hsome
  · exact absurd hdec (hno x y)

/-! ### Encoding (R171) -/

theorem leInt_penc (P : Point) : leInt (penc P) = (paff P).2.val + 2 ^ 255 * ((paff P).1.val % 2) := by
  have hy : (paff P).2.val < 2 ^ 255 := (paff P).2.isLt.trans (by decide)
  rw [penc, leInt_leBytes, Nat.mod_eq_of_lt (by omega)]

/-- The bytes of a valid point ask for its affine point. -/
theorem isDecoding_penc {P : Point} {x y : ZMod primeP} (h : Represents P x y) :
    IsDecoding (leInt (penc P)) (paff P).1 (paff P).2 := by
  have hy : (paff P).2.val < 2 ^ 255 := (paff P).2.isLt.trans (by decide)
  obtain ⟨hpx, hpy⟩ := represents_paff h
  rw [leInt_penc]
  exact ⟨by omega, by omega, by rw [hpx, hpy]; exact h.curve⟩

/-- The round trip of R171. -/
theorem pdec_penc {P : Point} (h : ValidPoint P) : ∃ Q, pdec (penc P) = some Q ∧ SameAffine Q P := by
  obtain ⟨x, y, hP⟩ := h
  have hdec := isDecoding_penc hP
  obtain ⟨hx, hy⟩ := represents_paff hP
  refine ⟨_, pdec_of_isDecoding (length_penc P) hdec, x, y, ?_, hP⟩
  rw [← hx, ← hy]
  exact represents_ofAffine hdec.curve

/-! ### The commands -/

section
variable {s : State} {sl : Slot} (d : PReg)

theorem exec_pdec_of_some {P : Point} (h : pdec (s.readSlot sl) = some P) :
    exec (.pdec d sl) s = .next (((s.writeP d P).writeValid true).complete .ok) := by
  simp only [exec, execPdec, h]

theorem exec_pdec_of_none (h : pdec (s.readSlot sl) = none) :
    exec (.pdec d sl) s = .next ((s.writeValid false).complete .ok) := by
  simp only [exec, execPdec, h]

end

/-- A byte string stored at a slot changes the bytes from there on for its length. -/
theorem unchanged_complete_writeSlot (s : State) (e : ResultCode) (sl : Slot) {b : List Byte} {n : Nat} (h : Memory.wf s.mem)
    (hb : b.length = n) :
    Unchanged { bytes := within (slotOffset sl) n } s ((s.writeSlot sl b).complete e) := by
  constructor
  case bytes =>
    intro a ha
    rw [complete_mem, read_writeSlot s sl b a h, if_neg]
    simpa [within, hb] using ha
  all_goals simp

@[simp] theorem readSlot_complete (s : State) (e : ResultCode) (sl : Slot) : (s.complete e).readSlot sl = s.readSlot sl := rfl

/-! ### The obligations -/

/-- Settles O35: `pdec` answers the decoding that the slot's bytes ask for, or nothing when there is none. -/
theorem pointDecodeResult : Obligations.PointDecodeResult := by
  unfold Obligations.PointDecodeResult
  intro d sl s
  refine ⟨decode_encode (i := .pdec d sl) rfl, ?_⟩
  rcases pdec_cases (length_readSlot s sl) with ⟨x, y, hdec, hsome⟩ | ⟨hnone, hno⟩
  · refine ⟨_, exec_pdec_of_some d hsome, ended_complete _ _, unchanged_complete_writeP_writeValid s _ d _ _, fun v hv => ?_⟩
    rw [leInt_readSlot, ← hv] at hdec
    simp only [complete_valid, writeValid_valid, readP_complete, readP_writeValid, readP_writeP_same]
    refine ⟨iff_of_true trivial ((exists_isDecoding_iff v).1 ⟨x, y, hdec⟩), fun _ => ?_, by simp⟩
    exact ⟨hdec.parity, hdec.y_val, hdec.curve, toZ_fmul x y, ofAffine_z_val x y⟩
  · refine ⟨_, exec_pdec_of_none d hnone, ended_complete _ _, unchanged_complete_writeValid s _ d _, fun v hv => ?_⟩
    rw [leInt_readSlot, ← hv] at hno
    simp only [complete_valid, writeValid_valid, readP_complete, readP_writeValid, ← exists_isDecoding_iff]
    simp [hno]

/-- Settles O36: the bytes stored are those of `penc`, whose integer is y with the parity of x on top. -/
theorem pointEncodeResult : Obligations.PointEncodeResult := by
  unfold Obligations.PointEncodeResult
  intro a sl s hwf
  have hread : ((s.writeSlot sl (penc (s.readP a))).complete .ok).readSlot sl = penc (s.readP a) := by
    rw [readSlot_complete, readSlot_writeSlot_same s sl _ hwf (length_penc _)]
  refine ⟨decode_encode (i := .penc a sl) rfl, _, rfl, ended_complete _ _,
    unchanged_complete_writeSlot s _ sl hwf (length_penc _), ?_, fun x y hz hx hy => ?_⟩
  · rw [hread]
    exact pdec_penc
  · rw [← leInt_readSlot, hread, leInt_penc, paff_eq_of_mul_z hz hx hy]

end Sys2Proof.Machine
end

section
/-!
PROOFS. The transfers between the IO buffer and F, K, XSK (42_transfer.md): what a byte of a slot reads as after a store, how the
width selector names the bytes and the bits of a K transfer, and the statements about FLD, FST, KLD, KST, XLD and XST.
-/

namespace Sys2Proof.Machine

/-! ### Frames (R120) -/

section
variable (s : State) (e : ResultCode)

theorem unchanged_complete_writeK (v : Nat) : Unchanged { k := true } s ((s.writeK v).complete e) := by
  constructor <;> simp

theorem unchanged_complete_writeXsk (v : Vector Byte 64) : Unchanged { xsk := true } s ((s.writeXsk v).complete e) := by
  constructor <;> simp

end

/-! ### The bytes of a slot (20_memory.md R62) -/

section
variable (s : State) (sl : Slot)

theorem read_writeSlot_add {b : List Byte} {i : Nat} (hwf : Memory.wf s.mem) (hi : i < b.length) :
    Memory.read (s.writeSlot sl b).mem (slotOffset sl.val + i) = b[i] := by
  rw [read_writeSlot s sl b _ hwf, if_pos ⟨by omega, by omega⟩, Nat.add_sub_cancel_left, List.getD_eq_getElem b 0 hi]

theorem read_writeSlot_leBytes {n i : Nat} (v : Nat) (hwf : Memory.wf s.mem) (hi : i < n) :
    Memory.read (s.writeSlot sl (leBytes n v)).mem (slotOffset sl.val + i) = BitVec.ofNat 8 (v / 256 ^ i) := by
  rw [read_writeSlot_add s sl hwf (by rwa [length_leBytes]), getElem_leBytes]

theorem getElem_bytes64_readSlotPair (i : Fin 64) :
    (bytes64 (s.readSlotPair sl))[i] = Memory.read s.mem (slotOffset sl.val + i) := by
  have hi : i.val < (s.readSlotPair sl).length := by rw [length_readSlotPair]; exact i.isLt
  calc (bytes64 (s.readSlotPair sl))[i] = (s.readSlotPair sl).getD i.val 0 := by simp [bytes64]
    _ = (s.readSlotPair sl)[i.val] := List.getD_eq_getElem _ 0 hi
    _ = Memory.read s.mem (slotOffset sl.val + i) := Memory.getElem_readBytes s.mem (slotOffset sl.val) 64 i.val hi

end

/-! ### Field elements in slots (R200, R201) -/

/-- A canonical value is below 2^255, so the top bit of its last byte is free. -/
theorem getLsbD_top_byte (x : Fe) : (BitVec.ofNat 8 (x.val / 256 ^ 31)).getLsbD 7 = false := by
  have hlt : x.val < 2 ^ 255 := x.isLt.trans (by decide)
  have htop : x.val / 256 ^ 31 < 2 ^ 7 := by omega
  rw [BitVec.getLsbD_ofNat, Nat.testBit_lt_two_pow htop, Bool.and_false]

/-- The 32 bytes of a canonical value stand for that value, which the reduction keeps. -/
theorem ofNat_leInt_leBytes (x : Fe) : Fe.ofNat (leInt (leBytes 32 x.val)) = x := by
  have hlt : x.val < 256 ^ 32 := x.isLt.trans (by decide)
  rw [leInt_leBytes, Nat.mod_eq_of_lt hlt, ofNat_val]

/-! ### The width selector (30_encoding.md R94, R96 f) -/

theorem Width.bytes_eq (w : Width) : Width.bytes w = if w = .wide then 64 else 32 := by
  cases w <;> rfl

theorem Width.sixteen_mul_bit (w : Width) : 16 * w.bit = if w = .wide then 16 else 0 := by
  cases w <;> rfl

theorem Width.bits_eq (w : Width) : Width.bits w = 8 * Width.bytes w := by
  cases w <;> rfl

theorem Width.bytes_le (w : Width) : Width.bytes w ≤ 64 := by
  cases w <;> decide

theorem pairFits_iff (sl : Slot) : sl.pairFits = true ↔ sl.val ≤ 2 := decide_eq_true_iff

theorem kSpanFits_iff (sl : Slot) (w : Width) : kSpanFits sl w = true ↔ (w = .wide → sl.val ≤ 2) := by
  cases w <;> simp [kSpanFits, pairFits_iff]

/-! ### The scalar register (R202, R203) -/

theorem leInt_memRead_io (s : State) (sl : Slot) (n : Nat) : leInt (s.memRead .io (Slot.addr sl) n) =
    ∑ i ∈ Finset.range n, (Memory.read s.mem (slotOffset sl.val + i)).toNat * 256 ^ i :=
  leInt_readBytes s.mem (slotOffset sl.val) n

theorem pow_256_eq (i : Nat) : 256 ^ i = 2 ^ (8 * i) := (pow_mul 2 8 i).symm

/-- K has room for the bytes of either form, so loading them drops nothing. -/
theorem toNat_ofNat_leInt {b : List Byte} (h : b.length ≤ 64) : (BitVec.ofNat 512 (leInt b)).toNat = leInt b := by
  have hbits : 8 * b.length ≤ 512 := by omega
  have hlt := (leInt_lt b).trans_le ((pow_256_eq _).trans_le (Nat.pow_le_pow_right (by decide) hbits))
  rw [BitVec.toNat_ofNat, Nat.mod_eq_of_lt hlt]

/-- A byte of the slice of K that the width selects is that byte of K. -/
theorem ofNat_kSlice_div (s : State) {w : Width} {i : Nat} (hi : i < Width.bytes w) :
    BitVec.ofNat 8 (s.kSlice w / 256 ^ i) = s.k.extractLsb' (8 * i) 8 := by
  apply BitVec.eq_of_getLsbD_eq
  intro j hj
  have hbit : 8 * i + j < Width.bits w := by rw [Width.bits_eq]; omega
  rw [BitVec.getLsbD_ofNat, BitVec.getLsbD_extractLsb', pow_256_eq, Nat.testBit_div_two_pow, State.kSlice,
    Nat.add_comm j, Nat.testBit_mod_two_pow, decide_eq_true hbit, Bool.true_and,
    BitVec.testBit_toNat]

/-! ### The commands -/

section
variable {s : State} {sl : Slot}

theorem exec_fld (d : FReg) : exec (.fld d sl) s =
    .next ((s.writeF d (Fe.ofNat (leInt (s.readSlot sl)))).complete .ok) :=
  rfl

theorem exec_kld_of_fits {w : Width} (h : kSpanFits sl w = true) : exec (.kld sl w) s =
    .next ((s.writeK (leInt (s.memRead .io (Slot.addr sl) (Width.bytes w)))).complete .ok) :=
  if_pos h

theorem exec_kst_of_fits {w : Width} (h : kSpanFits sl w = true) : exec (.kst sl w) s =
    .next ((s.writeSlot sl (leBytes (Width.bytes w) (s.kSlice w))).complete .ok) :=
  if_pos h

theorem exec_xld_of_fits (h : sl.pairFits = true) : exec (.xld sl) s =
    .next ((s.writeXsk (bytes64 (s.readSlotPair sl))).complete .ok) :=
  if_pos h

theorem exec_xst_of_fits (h : sl.pairFits = true) : exec (.xst sl) s =
    .next ((s.writeSlot sl s.xsk.toList).complete .ok) :=
  if_pos h

end

/-! ### The obligations -/

/-- Settles O42: the bytes stored are those of a value below p, so loading them reduces nothing away. -/
theorem fieldStoreWritesTheSlot : Obligations.FieldStoreWritesTheSlot := by
  unfold Obligations.FieldStoreWritesTheSlot
  intro a sl s hwf
  have hread (i : Nat) (hi : i < 32) :
      Memory.read ((s.writeSlot sl (leBytes 32 (s.readF a).val)).complete .ok).mem (slotOffset sl + i) =
        BitVec.ofNat 8 ((s.readF a).val / 256 ^ i) := by
    rw [complete_mem, read_writeSlot_leBytes s sl _ hwf hi]
  refine ⟨decode_encode (i := .fst a sl) rfl, _, rfl, ended_complete _ _,
    unchanged_complete_writeSlot s _ sl hwf (length_leBytes _ _), hread, ?_, ?_⟩
  · rw [hread 31 (by decide)]
    exact getLsbD_top_byte _
  · intro d u hu
    rw [exec_fld, Host.Outcome.next.injEq] at hu
    rw [← hu, readF_complete, readF_writeF_same, readSlot_complete,
      readSlot_writeSlot_same s sl _ hwf (length_leBytes _ _), ofNat_leInt_leBytes]

/-- Settles O41: the slot's integer is the sum over its bytes. -/
theorem fieldLoadReducesTheSlot : Obligations.FieldLoadReducesTheSlot := by
  unfold Obligations.FieldLoadReducesTheSlot
  intro d sl s
  refine ⟨decode_encode (i := .fld d sl) rfl, _, rfl, ended_complete _ _, unchanged_complete_writeF s _ d _, ?_⟩
  rw [readF_complete, readF_writeF_same, val_ofNat, leInt_readSlot]

/-- Settles O43: K has 512 bits, so the integer of 32 or 64 bytes fits. -/
theorem scalarLoadReadsTheSlots : Obligations.ScalarLoadReadsTheSlots := by
  unfold Obligations.ScalarLoadReadsTheSlots
  intro sl w s hfits
  rw [← kSpanFits_iff] at hfits
  rw [← Width.sixteen_mul_bit, ← Width.bytes_eq]
  refine ⟨decode_encode (i := .kld sl w) hfits, _, exec_kld_of_fits hfits, ended_complete _ _,
    unchanged_complete_writeK s _ _, ?_⟩
  have hlen : (s.memRead .io (Slot.addr sl) (Width.bytes w)).length ≤ 64 := by
    simpa [State.memRead] using Width.bytes_le w
  rw [complete_k, writeK_k, toNat_ofNat_leInt hlen, leInt_memRead_io]

/-- Settles O44: the bytes of the slice of K that the width selects are the bytes of K. -/
theorem scalarStoreWritesTheSlots : Obligations.ScalarStoreWritesTheSlots := by
  unfold Obligations.ScalarStoreWritesTheSlots
  intro sl w s hwf hfits
  rw [← kSpanFits_iff] at hfits
  rw [← Width.sixteen_mul_bit, ← Width.bytes_eq]
  refine ⟨decode_encode (i := .kst sl w) hfits, _, exec_kst_of_fits hfits, ended_complete _ _,
    unchanged_complete_writeSlot s _ sl hwf (length_leBytes _ _), fun i hi => ?_⟩
  rw [complete_mem, read_writeSlot_leBytes s sl _ hwf hi, ofNat_kSlice_div s hi]

/-- Settles O45: both commands move the bytes of the two slots in order. -/
theorem keyTransfersMoveEveryByte : Obligations.KeyTransfersMoveEveryByte := by
  unfold Obligations.KeyTransfersMoveEveryByte
  intro sl s hsl hwf
  have hfits : sl.pairFits = true := (pairFits_iff sl).2 hsl
  have hlen : s.xsk.toList.length = 64 := Vector.length_toList
  refine ⟨decode_encode (i := .xld sl) hfits, decode_encode (i := .xst sl) hfits, ?_, ?_⟩
  · refine ⟨_, exec_xld_of_fits hfits, ended_complete _ _, unchanged_complete_writeXsk s _ _, fun i => ?_⟩
    exact getElem_bytes64_readSlotPair s sl i
  · refine ⟨_, exec_xst_of_fits hfits, ended_complete _ _, unchanged_complete_writeSlot s _ sl hwf hlen, fun i => ?_⟩
    rw [complete_mem, read_writeSlot_add s sl hwf (hlen.symm ▸ i.isLt)]
    exact Vector.getElem_toList _

end Sys2Proof.Machine
end

section
/-!
PROOFS. The sequencer's keys, its length check and CLR (43_sequencer.md): the clamped scalar's range, what the body of DERIVE
writes, and the statements about DERIVE, CLR and BadLength.
-/

namespace Sys2Proof.Machine

/-! ### Clamping (R223) -/

@[simp] theorem length_clamp (b : List Byte) : (clamp b).length = b.length := by
  simp [clamp]

theorem getElem_clamp {b : List Byte} {i : Nat} (h : i < b.length) : (clamp b)[i]'(by simpa using h) =
    if i = 0 then b[i] &&& 0xF8 else if i = 31 then (b[i] &&& 0x7F) ||| 0x40 else b[i] := by
  rcases Nat.eq_zero_or_pos i with rfl | hi
  · simp [clamp]
  · simp [clamp, List.getElem_modify, hi.ne, hi.ne', eq_comm]

/-- Both clamped bytes lie in the first half of a hash. -/
theorem clamp_take_append_drop (b : List Byte) : clamp (b.take 32) ++ b.drop 32 = clamp b := by
  have htake : clamp (b.take 32) = (clamp b).take 32 := by simp [clamp, List.take_modify]
  have hdrop : b.drop 32 = (clamp b).drop 32 := by simp [clamp, List.drop_modify_of_lt]
  rw [htake, hdrop, List.take_append_drop]

/-- A base-256 digit of `le_int(b)` is a byte of b. -/
theorem leInt_digit (b : List Byte) (i : Nat) (h : i < b.length) : leInt b / 256 ^ i % 256 = b[i].toNat := by
  rw [← ofNat_leInt_div b i h, BitVec.toNat_ofNat]

/-- The lowest byte of a clamped scalar is a multiple of 8. -/
theorem clamped_low_byte : ∀ x : Byte, (x &&& 0xF8).toNat % 8 = 0 := by
  decide

/-- The highest byte of a clamped scalar has bit 7 clear and bit 6 set. -/
theorem clamped_high_byte : ∀ x : Byte, 64 ≤ ((x &&& 0x7F) ||| 0x40).toNat ∧ ((x &&& 0x7F) ||| 0x40).toNat < 128 := by
  decide

/-- "Always in [2^254, 2^255) and divisible by 8": bytes 31 and 0 are the top and the bottom digit of the integer. -/
theorem leInt_clamp {b : List Byte} (h : b.length = 32) :
    2 ^ 254 ≤ leInt (clamp b) ∧ leInt (clamp b) < 2 ^ 255 ∧ leInt (clamp b) % 8 = 0 := by
  have hlt : leInt (clamp b) < 256 ^ 32 := by simpa [h] using leInt_lt (clamp b)
  have hlow : leInt (clamp b) / 256 ^ 0 % 256 = (b[0] &&& 0xF8).toNat := by
    rw [leInt_digit _ 0 (by simp [h]), getElem_clamp (by omega), if_pos rfl]
  have hhigh : leInt (clamp b) / 256 ^ 31 % 256 = ((b[31] &&& 0x7F) ||| 0x40).toNat := by
    rw [leInt_digit _ 31 (by simp [h]), getElem_clamp (by omega), if_neg (by decide), if_pos rfl]
  have hmul := clamped_low_byte b[0]
  have hrange := clamped_high_byte b[31]
  omega

/-! ### The derived key (R223) -/

theorem deriveKey_halves (seed : List Byte) :
    (deriveKey seed).scalarBytes ++ (deriveKey seed).nonceKey = clamp (hashOf seed) :=
  clamp_take_append_drop _

theorem deriveKey_publicKey (seed : List Byte) :
    (deriveKey seed).publicKey = penc (smul basePoint (leInt (deriveKey seed).scalarBytes) 256) :=
  rfl

theorem length_scalarBytes (seed : List Byte) : (deriveKey seed).scalarBytes.length = 32 := by
  simp [deriveKey]

theorem length_publicKey (seed : List Byte) : (deriveKey seed).publicKey.length = 32 := by
  rw [deriveKey_publicKey, length_penc]

/-- "Always in [2^254, 2^255) and divisible by 8". -/
theorem leInt_scalarBytes (seed : List Byte) : 2 ^ 254 ≤ leInt (deriveKey seed).scalarBytes ∧
    leInt (deriveKey seed).scalarBytes < 2 ^ 255 ∧ leInt (deriveKey seed).scalarBytes % 8 = 0 :=
  leInt_clamp (by simp)

/-! ### The body of DERIVE (R226) -/

theorem getElem_bytes64 {l : List Byte} (h : l.length = 64) (i : Fin 64) : (bytes64 l)[i] = l[i.val] := by
  simp [bytes64, h]

theorem scrubbed_complete {s : State} (e : ResultCode) (h : Scrubbed s) : Scrubbed (s.complete e) :=
  ⟨h.f, h.p, h.k, h.valid, h.eq, h.even⟩

@[simp] theorem readSlot_scrub (s : State) (sl : Slot) : s.scrub.readSlot sl = s.readSlot sl := rfl

section
variable (s : State)

theorem exec_derive : exec .derive s = .next (s.deriveBody.complete .ok) :=
  rfl

/-- What DERIVE writes: the clamped hash of the seed to XSK, the public key to slot 2. -/
theorem deriveBody_eq : s.deriveBody = (((s.send [s.readSlot 3]).writeXsk (bytes64 (clamp (hashOf (s.readSlot 3))))).writeSlot 2
    (deriveKey (s.readSlot 3)).publicKey).scrub := by
  rw [← deriveKey_halves]
  rfl

theorem deriveBody_hashSent : s.deriveBody.hashSent = s.hashSent ++ [s.readSlot 3] := by
  simp [deriveBody_eq]

theorem deriveBody_xsk : s.deriveBody.xsk = bytes64 (clamp (hashOf (s.readSlot 3))) := by
  simp [deriveBody_eq]

theorem deriveBody_xskScalar : s.deriveBody.xskScalar = (deriveKey (s.readSlot 3)).scalarBytes := by
  rw [State.xskScalar, deriveBody_xsk, toList_bytes64 _ (by simp), ← deriveKey_halves]
  exact List.take_left' (length_scalarBytes _)

theorem deriveBody_readSlot_key (h : Memory.wf s.mem) : s.deriveBody.readSlot 2 = (deriveKey (s.readSlot 3)).publicKey := by
  rw [deriveBody_eq, readSlot_scrub, readSlot_writeSlot_same ((s.send _).writeXsk _) 2 _ h (length_publicKey _)]

theorem scrubbed_deriveBody : Scrubbed s.deriveBody := by
  rw [deriveBody_eq]
  exact scrubbed_scrub _

/-- The frame of a key derivation, whatever it writes. -/
theorem unchanged_complete_scrub_writeSlot_writeXsk (e : ResultCode) (sl : Slot) (ms : List (List Byte)) (v : Vector Byte 64)
    {b : List Byte} {n : Nat} (h : Memory.wf s.mem) (hb : b.length = n) :
    Unchanged { scrubTouches with bytes := within (slotOffset sl) n, xsk := true, hashSent := true } s
      ((((s.send ms).writeXsk v).writeSlot sl b).scrub.complete e) := by
  constructor
  case bytes => exact (unchanged_complete_writeSlot s e sl h hb).bytes
  all_goals simp [scrubTouches]

theorem unchanged_complete_deriveBody (e : ResultCode) (h : Memory.wf s.mem) :
    Unchanged { scrubTouches with bytes := within (slotOffset 2) 32, xsk := true, hashSent := true } s
      (s.deriveBody.complete e) := by
  rw [deriveBody_eq]
  exact unchanged_complete_scrub_writeSlot_writeXsk s e 2 _ _ h (length_publicKey _)

/-- The keys depend on the seed alone, not on MSGLEN. -/
theorem deriveBody_set_msglen (n : Word) : ({ s with msglen := n } : State).deriveBody = { s.deriveBody with msglen := n } := by
  have hslot : ({ s with msglen := n } : State).readSlot 3 = s.readSlot 3 := rfl
  rw [deriveBody_eq, deriveBody_eq, hslot]
  generalize (deriveKey (s.readSlot 3)).publicKey = b
  rfl

end

/-! ### The length check (R224) -/

theorem unchanged_complete (s : State) (e : ResultCode) : Unchanged {} s (s.complete e) := by
  constructor <;> simp

/-- A message that is too long ends the three commands before any effect. -/
theorem exec_of_badLength {i : Instr} {s : State} (hi : i ∈ [Instr.sign, .signp, .verify])
    (h : Config.msgMax < s.msglen.toNat) : exec i s = .next (s.complete .badLength) := by
  have hcheck : ¬s.lengthOk = true := by simpa [State.lengthOk] using h
  simp only [List.mem_cons, List.not_mem_nil, or_false] at hi
  rcases hi with rfl | rfl | rfl
  · exact if_neg hcheck
  · exact if_neg hcheck
  · exact if_neg hcheck

theorem getD_message (s : State) {j : Nat} (h : j < s.msglen.toNat) :
    s.message.getD j 0 = Memory.read s.mem (0x1000 + j) := by
  have hlen : j < s.message.length := by rwa [length_message]
  rw [List.getD_eq_getElem _ _ hlen]
  exact Memory.getElem_readBytes s.mem 0x1000 s.msglen.toNat j hlen

/-! ### The obligations -/

/-- Settles O46: XSK is the clamped hash byte by byte; its first half is the scalar of the derived key. -/
theorem deriveWritesTheKeys : Obligations.DeriveWritesTheKeys := by
  unfold Obligations.DeriveWritesTheKeys
  intro s hwf
  have hscalar : (s.deriveBody.complete .ok).xsk.toList.take 32 = (deriveKey (s.readSlot 3)).scalarBytes :=
    deriveBody_xskScalar s
  refine ⟨decode_encode (i := .derive) rfl, _, exec_derive s, ended_complete _ _,
    scrubbed_complete _ (scrubbed_deriveBody s), unchanged_complete_deriveBody s _ hwf, deriveBody_hashSent s, fun i => ?_, ?_⟩
  · have hi : i.val < (hashOf (s.readSlot 3)).length := by simp
    have hhash : (hashOf (s.readSlot 3))[i.val] = (Config.sha512 (s.readSlot 3))[i.val] := Vector.getElem_toList _
    rw [complete_xsk, deriveBody_xsk, getElem_bytes64 (by simp), getElem_clamp hi, hhash]
    split
    case isTrue h0 => simp only [h0]
    case isFalse h0 =>
      split
      case isTrue h31 => simp only [h31]
      case isFalse h31 => rfl
  · rw [hscalar, readSlot_complete, deriveBody_readSlot_key s hwf]
    exact ⟨deriveKey_publicKey _, leInt_scalarBytes _⟩

/-- Settles O50: CLR scrubs the datapath and writes the reset values of XSK, the memories and MSGLEN, and keeps ILL. -/
theorem clearRestoresTheDataState : Obligations.ClearRestoresTheDataState :=
  ⟨decode_encode (i := .clr) rfl, fun _ => rfl⟩

/-- Settles O51: a message that is too long leaves the state as it was but for its completion; DERIVE writes what its seed gives,
whatever MSGLEN holds, and CLR overwrites it. -/
theorem lengthCheckStopsBeforeAnyEffect : Obligations.LengthCheckStopsBeforeAnyEffect := by
  unfold Obligations.LengthCheckStopsBeforeAnyEffect
  refine ⟨fun i hi s h => ⟨_, exec_of_badLength hi h, ended_complete _ _, unchanged_complete _ _⟩,
    fun s => ⟨length_message s, fun j => getD_message s⟩, fun s t n hderive => ?_, fun _ _ => rfl⟩
  rw [exec_derive, Host.Outcome.next.injEq] at hderive
  rw [← hderive, exec_derive, deriveBody_set_msglen]
  rfl

end Sys2Proof.Machine
end

section
/-!
PROOFS. Illegal command words (60_exceptions.md R263): a legal command reports another code and leaves ILL alone, a host access
leaves ILL alone, and the statement about ERR = 4 and the sticky ILL.
-/

namespace Sys2Proof.Machine

/-! ### The codes of VERIFY (60_exceptions.md R262) -/

/-- The codes of the checks of R229 before its equation. -/
theorem code_of_verifyPoints_error {Rb Sb Ab : List Byte} {e : ResultCode} (h : verifyPoints Rb Sb Ab = .error e) :
    e = .badSignature ∨ e = .badPublicKey := by
  unfold verifyPoints at h
  split at h
  · exact .inl (Except.error.inj h).symm
  · split at h
    · exact .inl (Except.error.inj h).symm
    · split at h
      · exact .inr (Except.error.inj h).symm
      · cases h

theorem verifyResult_ne_illegalCommand (Rb Sb Ab m : List Byte) : verifyResult Rb Sb Ab m ≠ .illegalCommand := by
  unfold verifyResult
  split
  case h_1 e hpoints => rcases code_of_verifyPoints_error hpoints with rfl | rfl <;> decide
  case h_2 R A hpoints => split <;> decide

/-! ### A legal command (R263, R264) -/

/-- The outcome is a next state whose code is not that of an illegal word, with ILL as in `s`. -/
def CompletesLegally (s : State) (r : Result) : Prop :=
  ∃ t, r = .next t ∧ t.err ≠ .illegalCommand ∧ t.ill = s.ill

theorem completesLegally_complete {s u : State} {e : ResultCode} (he : e ≠ .illegalCommand) (hill : u.ill = s.ill) :
    CompletesLegally s (.next (u.complete e)) :=
  ⟨_, rfl, he, hill⟩

theorem completesLegally_ok {s u : State} (hill : u.ill = s.ill) : CompletesLegally s (.next (u.complete .ok)) :=
  completesLegally_complete (by decide) hill

/-- The 64-byte transfers: what an illegal span would do does not happen (30_encoding.md R96 f). -/
theorem completesLegally_of_admitted {s : State} {c : Prop} [Decidable c] {r r' : Result} (hc : c)
    (h : CompletesLegally s r) : CompletesLegally s (if c then r else r') := by
  rwa [if_pos hc]

/-- SIGN, SIGNP and VERIFY: a length that fails the check has its own code (43_sequencer.md R224). -/
theorem completesLegally_of_lengthCheck {s : State} {r : Result} (h : CompletesLegally s r) :
    CompletesLegally s (if s.lengthOk then r else .next (s.complete .badLength)) := by
  split
  · exact h
  · exact completesLegally_complete (by decide) rfl

theorem deriveBody_ill (s : State) : s.deriveBody.ill = s.ill := by
  simp [State.deriveBody]

theorem signBody_ill (s : State) : s.signBody.ill = s.ill := by
  simp [State.signBody]

/-- Every well-formed command completes legally. The split is along what a command can still decide: whether a root or a point
exists, whether the length fits; the operands' own constraint (30_encoding.md R96 e, f) is what `hwf` gives. -/
theorem exec_completesLegally {i : Instr} (hwf : i.wf = true) (s : State) : CompletesLegally s (exec i s) := by
  cases i with
  | fsqrt d e a =>
    have hne : d ≠ e := of_decide_eq_true hwf
    cases hroot : fsqrt (s.readF a) with
    | none =>
      rw [exec_fsqrt_of_none hne hroot]
      exact completesLegally_ok (by simp)
    | some roots =>
      rw [exec_fsqrt_of_some hne hroot]
      exact completesLegally_ok (by simp)
  | paff d e a =>
    rw [exec_paff a s (of_decide_eq_true hwf)]
    exact completesLegally_ok (by simp)
  | pfaf d a b =>
    cases hpoint : pfaf (s.readF a) (s.readF b) with
    | none =>
      rw [exec_pfaf_of_none d hpoint]
      exact completesLegally_ok (by simp)
    | some P =>
      rw [exec_pfaf_of_some d hpoint]
      exact completesLegally_ok (by simp)
  | pdec d sl =>
    cases hpoint : pdec (s.readSlot sl) with
    | none =>
      rw [exec_pdec_of_none d hpoint]
      exact completesLegally_ok (by simp)
    | some P =>
      rw [exec_pdec_of_some d hpoint]
      exact completesLegally_ok (by simp)
  | kld sl w | kst sl w | xld sl | xst sl => exact completesLegally_of_admitted hwf (completesLegally_ok (by simp))
  | derive => exact completesLegally_ok (deriveBody_ill s)
  | sign => exact completesLegally_of_lengthCheck (completesLegally_ok ((signBody_ill _).trans (deriveBody_ill s)))
  | signp => exact completesLegally_of_lengthCheck (completesLegally_ok (signBody_ill s))
  | verify =>
    exact completesLegally_of_lengthCheck (completesLegally_complete (verifyResult_ne_illegalCommand _ _ _ _) (by simp))
  | _ => exact completesLegally_ok (by simp)

/-! ### A host access (20_memory.md R64, R65, R70) -/

@[simp] theorem hostWrite32_ill (s : State) (off : Nat) (v : Word) : (s.hostWrite32 off v).ill = s.ill := by
  unfold State.hostWrite32
  split <;> rfl

@[simp] theorem serve_ill (s : State) (a : HostAccess) : (s.serve a).ill = s.ill := by
  unfold State.serve
  split <;> split <;> simp

/-! ### ILL is cumulative (R264) -/

/-- A completion step leaves ILL as it was for a legal word and sets it for an illegal one. -/
theorem step_unit_keeps_ill {s t : State} {w : Word} (hturn : s.turn = .unit w) (hstep : step s = .next t)
    (hill : s.ill = true) : t.ill = true := by
  cases hw : decode w with
  | ok i =>
    obtain ⟨u, hexec, -, hkeep⟩ := exec_completesLegally (decode_wf hw) s
    rw [step_of_unit_ok hturn hw, hexec, Host.Outcome.next.injEq] at hstep
    rw [← hstep, hkeep, hill]
  | error e =>
    rw [step_of_unit_error hturn hw, Host.Outcome.next.injEq] at hstep
    rw [← hstep, illegal_ill]

theorem step_keeps_ill_or_reset {s t : State} (hstep : step s = .next t) (hill : s.ill = true) :
    t.ill = true ∨ s.inputs.head? = some .reset := by
  rcases turn_cases s with ⟨-, -, hturn⟩ | ⟨e, rest, hinputs, hturn, -⟩ | ⟨w, -, hturn, -⟩
  · rw [step_of_idle hturn, Host.Outcome.next.injEq] at hstep
    exact .inl (hstep ▸ hill)
  · cases e with
    | reset => exact .inr (by rw [hinputs, List.head?_cons])
    | access a =>
      rw [step_of_host hturn, takeEvent_access, Host.Outcome.next.injEq] at hstep
      exact .inl (by rw [← hstep, serve_ill, hill])
  · exact .inl (step_unit_keeps_ill hturn hstep hill)

/-! ### The obligation -/

/-- Settles O7: an illegal word's completion step is `State.illegal`; ILL survives by whose turn the step is, and a legal command's
code by the command. -/
theorem illegalWordSetsStickyIll : Obligations.IllegalWordSetsStickyIll := by
  unfold Obligations.IllegalWordSetsStickyIll
  refine ⟨fun s w e hc hdue hw => ?_, fun s t => step_keeps_ill_or_reset, fun i s t hwf hexec => ?_⟩
  · exact ⟨s.illegal, step_of_unit_error (turn_eq_unit hc hdue) hw, ended_illegal s, illegal_ill s, rfl⟩
  · obtain ⟨u, hnext, herr, -⟩ := exec_completesLegally hwf s
    obtain rfl : u = t := Host.Outcome.next.inj (hnext.symm.trans hexec)
    exact herr

end Sys2Proof.Machine
end

section
/-!
PROOFS. The encoding's two round trips (30_encoding.md sections 1 to 5): a word that passes its row's mask test has no bit outside the
fields of its format, so its operands assemble to the word again.
-/

namespace Sys2Proof.Machine

/-! ### Each field of a word from the operand read there (R91 to R94) -/

section
variable {w : Word}

/-- A word is assembled from its fields. -/
theorem assemble_eq_of_fields {op d a b e imm : Nat} (hop : (WordFields.of w).op = op) (hd : (WordFields.of w).d = d)
    (ha : (WordFields.of w).a = a) (hb : (WordFields.of w).b = b) (he : (WordFields.of w).e = e)
    (himm : (WordFields.of w).imm = imm) : assemble op d a b e imm = w := by
  subst hop hd ha hb he himm
  apply BitVec.eq_of_toNat_eq
  rw [toNat_assemble]
  simp only [WordFields.of]
  omega

theorem field_d_eq_fRegField (h : (WordFields.of w).d ≤ 7) : (WordFields.of w).d = (fRegField w 20).val := by
  rw [val_fRegField_d]
  omega

theorem field_e_eq_fRegField (h : (WordFields.of w).e ≤ 7) : (WordFields.of w).e = (fRegField w 8).val := by
  rw [val_fRegField_e]
  omega

theorem field_a_eq_fRegField (h : (WordFields.of w).a ≤ 7) : (WordFields.of w).a = (fRegField w 16).val := by
  rw [val_fRegField]
  simp only [WordFields.of] at h ⊢
  omega

theorem field_b_eq_fRegField (h : (WordFields.of w).b ≤ 7) : (WordFields.of w).b = (fRegField w 12).val := by
  rw [val_fRegField]
  simp only [WordFields.of] at h ⊢
  omega

theorem field_d_eq_pRegField (h : (WordFields.of w).d ≤ 3) : (WordFields.of w).d = (pRegField w 20).val := by
  rw [val_pRegField]
  simp only [WordFields.of] at h ⊢
  omega

theorem field_a_eq_pRegField (h : (WordFields.of w).a ≤ 3) : (WordFields.of w).a = (pRegField w 16).val := by
  rw [val_pRegField]
  simp only [WordFields.of] at h ⊢
  omega

theorem field_b_eq_pRegField (h : (WordFields.of w).b ≤ 3) : (WordFields.of w).b = (pRegField w 12).val := by
  rw [val_pRegField]
  simp only [WordFields.of] at h ⊢
  omega

theorem imm_eq_slotField (h : (WordFields.of w).imm ≤ 3) : (WordFields.of w).imm = (slotField w).val := by
  rw [val_slotField]
  omega

theorem FieldConst.code_ofCode : ∀ c : BitVec 2, (FieldConst.ofCode c).code = c.toNat := by
  decide

theorem imm_eq_fieldConst_code (h : (WordFields.of w).imm ≤ 3) :
    (WordFields.of w).imm = (FieldConst.ofCode (w.extractLsb' 0 2)).code :=
  (imm_eq_slotField h).trans (FieldConst.code_ofCode _).symm

/-- A bit of the immediate, as a number. -/
theorem toNat_getLsbD (i : Nat) (hi : i < 8) : (w.getLsbD i).toNat = (WordFields.of w).imm / 2 ^ i % 2 := by
  have hbit : (WordFields.of w).imm.testBit i = w.getLsbD i := by
    simp only [WordFields.of, Nat.testBit_mod_two_pow, hi, decide_true, Bool.true_and]
    rfl
  rw [← hbit, Nat.toNat_testBit]

theorem PointConst.code_ofCode : ∀ b : Bool, (PointConst.ofCode b).code = b.toNat := by
  decide

theorem Width.bit_ofBit : ∀ b : Bool, (Width.ofBit b).bit = b.toNat := by
  decide

theorem imm_eq_pointConst_code (h : (WordFields.of w).imm ≤ 1) :
    (WordFields.of w).imm = (PointConst.ofCode (w.getLsbD 0)).code := by
  rw [PointConst.code_ofCode, toNat_getLsbD 0 (by decide)]
  omega

theorem imm_eq_width_bit (h : (WordFields.of w).imm ≤ 1) : (WordFields.of w).imm = (Width.ofBit (w.getLsbD 0)).bit := by
  rw [Width.bit_ofBit, toNat_getLsbD 0 (by decide)]
  omega

/-- KLD and KST: the slot number in bits 1:0, the width selector in bit 4, and no other bit. -/
theorem imm_eq_slot_add_width (h : (WordFields.of w).imm ≤ 3 ∨ (16 ≤ (WordFields.of w).imm ∧ (WordFields.of w).imm ≤ 19)) :
    (WordFields.of w).imm = (slotField w).val + 16 * (Width.ofBit (w.getLsbD 4)).bit := by
  rw [Width.bit_ofBit, toNat_getLsbD 4 (by decide), val_slotField]
  omega

end

/-! ### A legal word is the encoding of its command -/

/-- A word that passes its row's mask test is assembled from the operands read from it. -/
theorem encode_operands {o : Opcode} {w : Word} (hmask : w &&& o.mask = o.matchBits) : encode (o.operands w) = w := by
  obtain ⟨hop, hd, ha, hb, he, himm⟩ := (and_mask_eq_matchBits_iff o w).1 hmask
  obtain ⟨hFF, hFE, hFC, hEC⟩ := imm_and_eq_zero_iff _ (WordFields.imm_of_lt w)
  cases o with
  | FADD | FSUB | FMUL =>
    exact assemble_eq_of_fields hop (field_d_eq_fRegField hd) (field_a_eq_fRegField ha) (field_b_eq_fRegField hb)
      (Nat.le_zero.1 he) (hFF.1 himm)
  | FNEG | FSQR | FINV | FEXP | FMOV =>
    exact assemble_eq_of_fields hop (field_d_eq_fRegField hd) (field_a_eq_fRegField ha) (Nat.le_zero.1 hb)
      (Nat.le_zero.1 he) (hFF.1 himm)
  | FSQRT =>
    exact assemble_eq_of_fields hop (field_d_eq_fRegField hd) (field_a_eq_fRegField ha) (Nat.le_zero.1 hb)
      (field_e_eq_fRegField he) (hFF.1 himm)
  | FEQ =>
    exact assemble_eq_of_fields hop (Nat.le_zero.1 hd) (field_a_eq_fRegField ha) (field_b_eq_fRegField hb)
      (Nat.le_zero.1 he) (hFF.1 himm)
  | FPAR =>
    exact assemble_eq_of_fields hop (Nat.le_zero.1 hd) (field_a_eq_fRegField ha) (Nat.le_zero.1 hb)
      (Nat.le_zero.1 he) (hFF.1 himm)
  | FLDC =>
    exact assemble_eq_of_fields hop (field_d_eq_fRegField hd) (Nat.le_zero.1 ha) (Nat.le_zero.1 hb)
      (Nat.le_zero.1 he) (imm_eq_fieldConst_code (hFC.1 himm))
  | FLD =>
    exact assemble_eq_of_fields hop (field_d_eq_fRegField hd) (Nat.le_zero.1 ha) (Nat.le_zero.1 hb)
      (Nat.le_zero.1 he) (imm_eq_slotField (hFC.1 himm))
  | FST =>
    exact assemble_eq_of_fields hop (Nat.le_zero.1 hd) (field_a_eq_fRegField ha) (Nat.le_zero.1 hb)
      (Nat.le_zero.1 he) (imm_eq_slotField (hFC.1 himm))
  | PADD =>
    exact assemble_eq_of_fields hop (field_d_eq_pRegField hd) (field_a_eq_pRegField ha) (field_b_eq_pRegField hb)
      (Nat.le_zero.1 he) (hFF.1 himm)
  | PDBL | PNEG | PMOV =>
    exact assemble_eq_of_fields hop (field_d_eq_pRegField hd) (field_a_eq_pRegField ha) (Nat.le_zero.1 hb)
      (Nat.le_zero.1 he) (hFF.1 himm)
  | PEQ =>
    exact assemble_eq_of_fields hop (Nat.le_zero.1 hd) (field_a_eq_pRegField ha) (field_b_eq_pRegField hb)
      (Nat.le_zero.1 he) (hFF.1 himm)
  | PLDC =>
    exact assemble_eq_of_fields hop (field_d_eq_pRegField hd) (Nat.le_zero.1 ha) (Nat.le_zero.1 hb)
      (Nat.le_zero.1 he) (imm_eq_pointConst_code (hFE.1 himm))
  | PAFF =>
    exact assemble_eq_of_fields hop (field_d_eq_fRegField hd) (field_a_eq_pRegField ha) (Nat.le_zero.1 hb)
      (field_e_eq_fRegField he) (hFF.1 himm)
  | PFAF =>
    exact assemble_eq_of_fields hop (field_d_eq_pRegField hd) (field_a_eq_fRegField ha) (field_b_eq_fRegField hb)
      (Nat.le_zero.1 he) (hFF.1 himm)
  | PDEC =>
    exact assemble_eq_of_fields hop (field_d_eq_pRegField hd) (Nat.le_zero.1 ha) (Nat.le_zero.1 hb)
      (Nat.le_zero.1 he) (imm_eq_slotField (hFC.1 himm))
  | PENC =>
    exact assemble_eq_of_fields hop (Nat.le_zero.1 hd) (field_a_eq_pRegField ha) (Nat.le_zero.1 hb)
      (Nat.le_zero.1 he) (imm_eq_slotField (hFC.1 himm))
  | SMUL =>
    exact assemble_eq_of_fields hop (field_d_eq_pRegField hd) (field_a_eq_pRegField ha) (Nat.le_zero.1 hb)
      (Nat.le_zero.1 he) (imm_eq_width_bit (hFE.1 himm))
  | KLD | KST =>
    exact assemble_eq_of_fields hop (Nat.le_zero.1 hd) (Nat.le_zero.1 ha) (Nat.le_zero.1 hb)
      (Nat.le_zero.1 he) (imm_eq_slot_add_width (hEC.1 himm))
  | XLD | XST =>
    exact assemble_eq_of_fields hop (Nat.le_zero.1 hd) (Nat.le_zero.1 ha) (Nat.le_zero.1 hb)
      (Nat.le_zero.1 he) (imm_eq_slotField (hFC.1 himm))
  | DERIVE | SIGN | SIGNP | VERIFY | CLR =>
    exact assemble_eq_of_fields hop (Nat.le_zero.1 hd) (Nat.le_zero.1 ha) (Nat.le_zero.1 hb)
      (Nat.le_zero.1 he) (hFF.1 himm)

/-- A word that decodes passes its row's mask test, and its command is the row's operands. -/
theorem exists_operands_of_decode {w : Word} {i : Instr} (h : decode w = .ok i) :
    ∃ o : Opcode, w &&& o.mask = o.matchBits ∧ o.operands w = i := by
  obtain ⟨o, -, hmask, hwf⟩ := (exists_decode_eq_ok_iff w).1 ⟨i, h⟩
  exact ⟨o, hmask, Except.ok.inj ((decode_of_mask hmask hwf).symm.trans h)⟩

/-! ### The obligations -/

/-- Settles O3: the word passes its own row's mask test, and each operand is read back from its field. -/
theorem decodeOfEncodeIsTheCommand : Obligations.DecodeOfEncodeIsTheCommand :=
  fun _ => decode_encode

/-- Settles O4: the masks leave no bit outside the operands, so the operands assemble to the word. -/
theorem encodeOfDecodeIsTheWord : Obligations.EncodeOfDecodeIsTheWord := by
  unfold Obligations.EncodeOfDecodeIsTheWord
  intro w i hdecode
  obtain ⟨o, hmask, hops⟩ := exists_operands_of_decode hdecode
  exact ⟨decode_wf hdecode, hops ▸ encode_operands hmask⟩

/-- Settles O2: each word decoded by evaluation. -/
theorem writtenOutWordsDecode : Obligations.WrittenOutWordsDecode := by
  unfold Obligations.WrittenOutWordsDecode
  decide +kernel

end Sys2Proof.Machine
end

section
/-!
PROOFS. The addition law (41_point.md R160 to R162, R165).
-/

namespace Sys2Proof.Machine

/-! ### The affine law (R165) -/

theorem two_ne_zero_mod_p : (2 : ZMod primeP) ≠ 0 := by
  have h : Fe.toZ (Fe.ofNat 2) ≠ 0 := mt toZ_eq_zero.1 (by decide)
  rwa [toZ_ofNat, Nat.cast_ofNat] at h

/-- The addition law without division: (x₃, y₃) is the sum of (x₁, y₁) and (x₂, y₂). -/
structure IsSum (x₁ y₁ x₂ y₂ x₃ y₃ : ZMod primeP) : Prop where
  x_eq : x₃ * (1 + Fe.toZ curveD * x₁ * x₂ * y₁ * y₂) = x₁ * y₂ + x₂ * y₁
  y_eq : y₃ * (1 - Fe.toZ curveD * x₁ * x₂ * y₁ * y₂) = y₁ * y₂ + x₁ * x₂

section
variable {x₁ y₁ x₂ y₂ x₃ y₃ : ZMod primeP} (h₁ : CurveEq x₁ y₁) (h₂ : CurveEq x₂ y₂)
include h₁ h₂

/-- Were d·x₁·x₂·y₁·y₂ a square root e of 1, then with i = SQRTM1 and either sign of y₂ (i·x₁ ± e·y₁)^2 = d·(x₁·y₁·(i·x₂ ± y₂))^2,
and d a square. -/
theorem sq_ne_one_of_curveEq : (Fe.toZ curveD * x₁ * x₂ * y₁ * y₂) ^ 2 ≠ 1 := by
  have : Fact primeP.Prime := ⟨Laws.primeP_prime⟩
  intro he
  have hprod : Fe.toZ curveD * x₁ * x₂ * y₁ * y₂ ≠ 0 := by
    intro h
    rw [h] at he
    simp at he
  obtain ⟨⟨⟨⟨-, hx₁⟩, hx₂⟩, hy₁⟩, hy₂⟩ : (((Fe.toZ curveD ≠ 0 ∧ x₁ ≠ 0) ∧ x₂ ≠ 0) ∧ y₁ ≠ 0) ∧ y₂ ≠ 0 := by
    simpa only [mul_ne_zero_iff] using hprod
  have hi := toZ_sqrtm1
  rw [CurveEq] at h₁ h₂
  have hsq (t : ZMod primeP) (ht : t ^ 2 = 1) :
      (Fe.toZ sqrtm1 * x₁ + Fe.toZ curveD * x₁ * x₂ * y₁ * y₂ * t * y₁) ^ 2 =
        Fe.toZ curveD * (x₁ * y₁ * (Fe.toZ sqrtm1 * x₂ + t * y₂)) ^ 2 := by
    linear_combination (x₁ ^ 2 - Fe.toZ curveD * x₁ ^ 2 * y₁ ^ 2 * x₂ ^ 2) * hi + h₁ - Fe.toZ curveD * x₁ ^ 2 * y₁ ^ 2 * h₂ +
      (y₁ ^ 2 - 1) * he + ((Fe.toZ curveD * x₁ * x₂ * y₁ * y₂) ^ 2 * y₁ ^ 2 - Fe.toZ curveD * x₁ ^ 2 * y₁ ^ 2 * y₂ ^ 2) * ht
  have hzero (t : ZMod primeP) (ht : t ^ 2 = 1) : Fe.toZ sqrtm1 * x₂ + t * y₂ = 0 := by
    by_contra hne
    have hden : x₁ * y₁ * (Fe.toZ sqrtm1 * x₂ + t * y₂) ≠ 0 := mul_ne_zero (mul_ne_zero hx₁ hy₁) hne
    refine not_isSquare_curveD ⟨(Fe.toZ sqrtm1 * x₁ + Fe.toZ curveD * x₁ * x₂ * y₁ * y₂ * t * y₁) /
      (x₁ * y₁ * (Fe.toZ sqrtm1 * x₂ + t * y₂)), ?_⟩
    rw [← pow_two, div_pow, hsq t ht, mul_div_cancel_right₀ _ (pow_ne_zero 2 hden)]
  have hsum := hzero 1 (one_pow 2)
  have hdiff := hzero (-1) (by ring)
  have : 2 * y₂ = 0 := by linear_combination hsum - hdiff
  exact (mul_ne_zero two_ne_zero_mod_p hy₂) this

theorem denominators_ne_zero :
    1 + Fe.toZ curveD * x₁ * x₂ * y₁ * y₂ ≠ 0 ∧ 1 - Fe.toZ curveD * x₁ * x₂ * y₁ * y₂ ≠ 0 := by
  have : Fact primeP.Prime := ⟨Laws.primeP_prime⟩
  have hne := sq_ne_one_of_curveEq h₁ h₂
  rw [← mul_ne_zero_iff]
  intro h
  exact hne (by linear_combination -h)

/-- The sum is again on the curve. -/
theorem IsSum.curveEq (h : IsSum x₁ y₁ x₂ y₂ x₃ y₃) : CurveEq x₃ y₃ := by
  have : Fact primeP.Prime := ⟨Laws.primeP_prime⟩
  obtain ⟨hplus, hminus⟩ := denominators_ne_zero h₁ h₂
  obtain ⟨hx, hy⟩ := h
  rw [CurveEq] at h₁ h₂
  have key : -(x₁ * y₂ + x₂ * y₁) ^ 2 * (1 - Fe.toZ curveD * x₁ * x₂ * y₁ * y₂) ^ 2 +
      (y₁ * y₂ + x₁ * x₂) ^ 2 * (1 + Fe.toZ curveD * x₁ * x₂ * y₁ * y₂) ^ 2 =
      (1 + Fe.toZ curveD * x₁ * x₂ * y₁ * y₂) ^ 2 * (1 - Fe.toZ curveD * x₁ * x₂ * y₁ * y₂) ^ 2 +
        Fe.toZ curveD * (x₁ * y₂ + x₂ * y₁) ^ 2 * (y₁ * y₂ + x₁ * x₂) ^ 2 := by
    generalize Fe.toZ curveD = d at h₁ h₂
    linear_combination
      ((1 + d * x₁ ^ 2 * y₁ ^ 2 * (d * x₂ ^ 2 * y₂ ^ 2)) * (y₂ ^ 2 - x₂ ^ 2) -
        d * x₂ ^ 2 * y₂ ^ 2 * (y₁ ^ 2 - x₁ ^ 2 + 1 + d * x₁ ^ 2 * y₁ ^ 2)) * h₁ +
      ((1 + d * x₁ ^ 2 * y₁ ^ 2 * (d * x₂ ^ 2 * y₂ ^ 2)) * (1 + d * x₁ ^ 2 * y₁ ^ 2) -
        d * x₁ ^ 2 * y₁ ^ 2 * (y₂ ^ 2 - x₂ ^ 2 + 1 + d * x₂ ^ 2 * y₂ ^ 2)) * h₂
  rw [← hx, ← hy] at key
  rw [CurveEq]
  apply mul_right_cancel₀ (pow_ne_zero 2 (mul_ne_zero hplus hminus))
  linear_combination key

theorem exists_isSum : ∃ x₃ y₃, IsSum x₁ y₁ x₂ y₂ x₃ y₃ := by
  have : Fact primeP.Prime := ⟨Laws.primeP_prime⟩
  obtain ⟨hplus, hminus⟩ := denominators_ne_zero h₁ h₂
  exact ⟨_, _, div_mul_cancel₀ _ hplus, div_mul_cancel₀ _ hminus⟩

end

/-! ### Sums the laws of R173 speak of -/

section
variable (x y : ZMod primeP)

theorem isSum_neutral_left : IsSum 0 1 x y x y := ⟨by ring, by ring⟩

theorem isSum_neutral_right : IsSum x y 0 1 x y := ⟨by ring, by ring⟩

variable {x y} in
theorem isSum_neg (h : CurveEq x y) : IsSum x y (-x) y 0 1 := by
  rw [CurveEq] at h
  exact ⟨by ring, by linear_combination -h⟩

end

/-! ### The formulas give the law's points (R160, R161, R162) -/

section
variable {P Q : Point} {x y x₁ y₁ x₂ y₂ x₃ y₃ : ZMod primeP}

/-- With Z = Z₁·Z₂ the intermediate values of the formula are B - A = 2·Z·(x₁·y₂ + x₂·y₁), B + A = 2·Z·(y₁·y₂ + x₁·x₂) and
D ± C = 2·Z·(1 ± d·x₁·x₂·y₁·y₂). -/
theorem represents_padd (hP : Represents P x₁ y₁) (hQ : Represents Q x₂ y₂) (h : IsSum x₁ y₁ x₂ y₂ x₃ y₃) :
    Represents (padd P Q) x₃ y₃ := by
  have : Fact primeP.Prime := ⟨Laws.primeP_prime⟩
  obtain ⟨hplus, hminus⟩ := denominators_ne_zero hP.curve hQ.curve
  have hcurve := h.curveEq hP.curve hQ.curve
  obtain ⟨hx, hy⟩ := h
  have hZ : Fe.toZ (padd P Q).Z = (2 * Fe.toZ P.Z * Fe.toZ Q.Z) ^ 2 *
      ((1 - Fe.toZ curveD * x₁ * x₂ * y₁ * y₂) * (1 + Fe.toZ curveD * x₁ * x₂ * y₁ * y₂)) := by
    rw [toZ_padd_Z, hP.t_eq, hQ.t_eq]
    ring
  refine ⟨?_, ?_, ?_, ?_, hcurve⟩
  · rw [hZ]
    exact mul_ne_zero (pow_ne_zero 2 (mul_ne_zero (mul_ne_zero two_ne_zero_mod_p hP.z_ne) hQ.z_ne)) (mul_ne_zero hminus hplus)
  · rw [hZ, toZ_padd_X, hP.t_eq, hQ.t_eq, hP.x_eq, hP.y_eq, hQ.x_eq, hQ.y_eq]
    linear_combination -4 * (Fe.toZ P.Z * Fe.toZ Q.Z) ^ 2 * (1 - Fe.toZ curveD * x₁ * x₂ * y₁ * y₂) * hx
  · rw [hZ, toZ_padd_Y, hP.t_eq, hQ.t_eq, hP.x_eq, hP.y_eq, hQ.x_eq, hQ.y_eq]
    linear_combination -4 * (Fe.toZ P.Z * Fe.toZ Q.Z) ^ 2 * (1 + Fe.toZ curveD * x₁ * x₂ * y₁ * y₂) * hy
  · rw [hZ, toZ_padd_T, hP.x_eq, hP.y_eq, hQ.x_eq, hQ.y_eq]
    linear_combination -4 * (Fe.toZ P.Z * Fe.toZ Q.Z) ^ 2 * ((y₁ * y₂ + x₁ * x₂) * hx +
      x₃ * (1 + Fe.toZ curveD * x₁ * x₂ * y₁ * y₂) * hy)

/-- On the curve y^2 - x^2 and 2 + x^2 - y^2 are the law's denominators with both operands equal. -/
theorem represents_pdbl (hP : Represents P x y) (h : IsSum x y x y x₃ y₃) : Represents (pdbl P) x₃ y₃ := by
  have : Fact primeP.Prime := ⟨Laws.primeP_prime⟩
  obtain ⟨hplus, hminus⟩ := denominators_ne_zero hP.curve hP.curve
  have hcurve := h.curveEq hP.curve hP.curve
  obtain ⟨hx, hy⟩ := h
  have hc := hP.curve
  rw [CurveEq] at hc
  have hG : (x * Fe.toZ P.Z) ^ 2 - (y * Fe.toZ P.Z) ^ 2 = -(Fe.toZ P.Z ^ 2 * (1 + Fe.toZ curveD * x * x * y * y)) := by
    linear_combination -Fe.toZ P.Z ^ 2 * hc
  have hF : 2 * Fe.toZ P.Z ^ 2 + -(Fe.toZ P.Z ^ 2 * (1 + Fe.toZ curveD * x * x * y * y)) =
      Fe.toZ P.Z ^ 2 * (1 - Fe.toZ curveD * x * x * y * y) := by
    ring
  have hZ : Fe.toZ (pdbl P).Z = -((Fe.toZ P.Z ^ 2) ^ 2 *
      ((1 - Fe.toZ curveD * x * x * y * y) * (1 + Fe.toZ curveD * x * x * y * y))) := by
    rw [toZ_pdbl_Z, hP.x_eq, hP.y_eq, hG, hF]
    ring
  refine ⟨?_, ?_, ?_, ?_, hcurve⟩
  · rw [hZ]
    exact neg_ne_zero.2 (mul_ne_zero (pow_ne_zero 2 (pow_ne_zero 2 hP.z_ne)) (mul_ne_zero hminus hplus))
  · rw [hZ, toZ_pdbl_X, hP.x_eq, hP.y_eq, hG, hF]
    linear_combination (Fe.toZ P.Z ^ 2) ^ 2 * (1 - Fe.toZ curveD * x * x * y * y) * hx
  · rw [hZ, toZ_pdbl_Y, hP.x_eq, hP.y_eq, hG]
    linear_combination (Fe.toZ P.Z ^ 2) ^ 2 * (1 + Fe.toZ curveD * x * x * y * y) * hy
  · rw [hZ, toZ_pdbl_T, hP.x_eq, hP.y_eq]
    linear_combination (Fe.toZ P.Z ^ 2) ^ 2 * ((x ^ 2 + y ^ 2) * hx + x₃ * (1 + Fe.toZ curveD * x * x * y * y) * hy)

theorem represents_pneg (hP : Represents P x y) : Represents (pneg P) (-x) y where
  z_ne := hP.z_ne
  x_eq := by rw [pneg, toZ_fneg, hP.x_eq, neg_mul]
  y_eq := hP.y_eq
  t_eq := by rw [pneg, toZ_fneg, hP.t_eq]; ring
  curve := by simpa [CurveEq] using hP.curve

end

/-! ### Affine points are what the functions see (R23) -/

section
variable {P P' Q Q' : Point}

theorem represents_pointNeutral : Represents Point.neutral 0 1 := by
  have htuple : Point.neutral = Point.ofAffine (Fe.ofNat 0) (Fe.ofNat 1) := by decide +kernel
  have hcurve : CurveEq (Fe.toZ (Fe.ofNat 0)) (Fe.toZ (Fe.ofNat 1)) := (onCurve_iff _ _).1 (by decide +kernel)
  simpa [← htuple] using represents_ofAffine hcurve

theorem SameAffine.symm (h : SameAffine P Q) : SameAffine Q P := by
  obtain ⟨x, y, hP, hQ⟩ := h
  exact ⟨x, y, hQ, hP⟩

theorem SameAffine.paff_eq (h : SameAffine P Q) : paff P = paff Q := by
  obtain ⟨x, y, hP, hQ⟩ := h
  obtain ⟨hPx, hPy⟩ := represents_paff hP
  obtain ⟨hQx, hQy⟩ := represents_paff hQ
  exact Prod.ext (toZ_injective (hPx.trans hQx.symm)) (toZ_injective (hPy.trans hQy.symm))

theorem SameAffine.penc_eq (h : SameAffine P Q) : penc P = penc Q := by
  rw [penc, penc, h.paff_eq]

theorem SameAffine.peq_eq (hP : SameAffine P P') (hQ : SameAffine Q Q') : peq P Q = peq P' Q' := by
  rw [peq, peq, hP.paff_eq, hQ.paff_eq]

theorem sameAffine_padd (hP : SameAffine P P') (hQ : SameAffine Q Q') : SameAffine (padd P Q) (padd P' Q') := by
  obtain ⟨x₁, y₁, hP, hP'⟩ := hP
  obtain ⟨x₂, y₂, hQ, hQ'⟩ := hQ
  obtain ⟨x₃, y₃, hsum⟩ := exists_isSum hP.curve hQ.curve
  exact ⟨x₃, y₃, represents_padd hP hQ hsum, represents_padd hP' hQ' hsum⟩

theorem sameAffine_pdbl (hP : SameAffine P P') : SameAffine (pdbl P) (pdbl P') := by
  obtain ⟨x, y, hP, hP'⟩ := hP
  obtain ⟨x₃, y₃, hsum⟩ := exists_isSum hP.curve hP.curve
  exact ⟨x₃, y₃, represents_pdbl hP hsum, represents_pdbl hP' hsum⟩

theorem sameAffine_pneg (hP : SameAffine P P') : SameAffine (pneg P) (pneg P') := by
  obtain ⟨x, y, hP, hP'⟩ := hP
  exact ⟨-x, y, represents_pneg hP, represents_pneg hP'⟩

theorem ValidPoint.sameAffine_self (hP : ValidPoint P) : SameAffine P P := by
  obtain ⟨x, y, hP⟩ := hP
  exact ⟨x, y, hP, hP⟩

theorem SameAffine.valid (h : SameAffine P Q) : ValidPoint P := by
  obtain ⟨x, y, hP, -⟩ := h
  exact ⟨x, y, hP⟩

/-- The dedicated doubling agrees with the addition of the point to itself. -/
theorem sameAffine_pdbl_padd (hP : ValidPoint P) : SameAffine (pdbl P) (padd P P) := by
  obtain ⟨x, y, hP⟩ := hP
  obtain ⟨x₃, y₃, hsum⟩ := exists_isSum hP.curve hP.curve
  exact ⟨x₃, y₃, represents_pdbl hP hsum, represents_padd hP hP hsum⟩

end

theorem Point.eq_of_toZ_eq {P Q : Point} (hX : Fe.toZ P.X = Fe.toZ Q.X) (hY : Fe.toZ P.Y = Fe.toZ Q.Y)
    (hT : Fe.toZ P.T = Fe.toZ Q.T) (hZ : Fe.toZ P.Z = Fe.toZ Q.Z) : P = Q := by
  obtain ⟨X, Y, T, Z⟩ := P
  rw [Point.mk.injEq]
  exact ⟨toZ_injective hX, toZ_injective hY, toZ_injective hT, toZ_injective hZ⟩

/-- The formula is symmetric, tuple for tuple. -/
theorem padd_comm (P Q : Point) : padd P Q = padd Q P := by
  apply Point.eq_of_toZ_eq
  · rw [toZ_padd_X, toZ_padd_X]
    ring
  · rw [toZ_padd_Y, toZ_padd_Y]
    ring
  · rw [toZ_padd_T, toZ_padd_T]
    ring
  · rw [toZ_padd_Z, toZ_padd_Z]
    ring

/-! ### The obligations -/

/-- Settles O39: the two denominators, and for each formula the sum it represents. -/
theorem additionLawIsComplete : Obligations.AdditionLawIsComplete := by
  unfold Obligations.AdditionLawIsComplete
  intro P Q x₁ y₁ x₂ y₂ hP hQ
  obtain ⟨hplus, hminus⟩ := denominators_ne_zero hP.curve hQ.curve
  obtain ⟨x₃, y₃, hsum⟩ := exists_isSum hP.curve hQ.curve
  obtain ⟨x₄, y₄, hdouble⟩ := exists_isSum hP.curve hP.curve
  exact ⟨hplus, hminus, ⟨x₃, y₃, represents_padd hP hQ hsum, hsum.x_eq, hsum.y_eq⟩,
    ⟨x₄, y₄, represents_pdbl hP hdouble, hdouble.x_eq, hdouble.y_eq⟩, represents_pneg hP⟩

/-- Settles O40: the neutral and the negative by their sums, doubling by the law, and the encoding because it sees the affine point
alone. -/
theorem pointLawsOfTheSource : Obligations.PointLawsOfTheSource := by
  unfold Obligations.PointLawsOfTheSource
  intro P hP
  obtain ⟨Q, hdec, hQ⟩ := pdec_penc hP
  have hdouble := sameAffine_pdbl_padd hP
  obtain ⟨x, y, hP⟩ := hP
  have hneutral := represents_pointNeutral
  exact ⟨⟨x, y, represents_padd hP hneutral (isSum_neutral_right x y), hP⟩,
    ⟨0, 1, represents_padd hP (represents_pneg hP) (isSum_neg hP.curve), hneutral⟩, hdouble, Q, hdec, hQ, hQ.penc_eq⟩

/-- Settles O28: the coordinates are the law's formula read in the ring of residues, which is symmetric. -/
theorem pointAdditionFormula : Obligations.PointAdditionFormula := by
  unfold Obligations.PointAdditionFormula
  intro d a b s
  have hcomm : exec (.padd d a b) s = exec (.padd d b a) s := by
    simp only [exec, execPadd, padd_comm (s.readP a)]
  refine ⟨decode_encode (i := .padd d a b) rfl, hcomm, _, rfl, ended_complete _ _, unchanged_complete_writeP s _ d _, ?_⟩
  rintro _ _ _ _ _ _ _ _ rfl rfl rfl rfl rfl rfl rfl rfl _ _ _ _ rfl rfl rfl rfl
  rw [readP_complete, readP_writeP_same]
  exact ⟨toZ_padd_X _ _, toZ_padd_Y _ _, toZ_padd_T _ _, toZ_padd_Z _ _⟩

/-- Settles O29: the coordinates are the doubling formula read in the ring of residues. -/
theorem pointDoublingFormula : Obligations.PointDoublingFormula := by
  unfold Obligations.PointDoublingFormula
  intro d a s
  refine ⟨decode_encode (i := .pdbl d a) rfl, _, rfl, ended_complete _ _, unchanged_complete_writeP s _ d _, ?_⟩
  rw [readP_complete, readP_writeP_same]
  refine ⟨sameAffine_pdbl_padd, ?_⟩
  rintro _ _ _ rfl rfl rfl _ _ _ _ _ _ _ rfl rfl rfl rfl rfl rfl rfl
  exact ⟨toZ_pdbl_X _, toZ_pdbl_Y _, toZ_pdbl_T _, toZ_pdbl_Z _⟩

end Sys2Proof.Machine
end

section
/-!
PROOFS. Scalar multiplication (41_point.md R172): the ladder as a fold over the scalar's bits, what it keeps of its accumulators,
and the statements about SMUL.
-/

namespace Sys2Proof.Machine

/-! ### The ladder as a fold -/

/-- One step of the ladder on its two accumulators. -/
def ladderStep (b : Bool) (R : Point × Point) : Point × Point :=
  if b then (padd R.1 R.2, pdbl R.2) else (pdbl R.1, padd R.1 R.2)

theorem ladder_succ (n i : Nat) (R₀ R₁ : Point) : ladder n (i + 1) R₀ R₁ =
    ladder n i (ladderStep (n.testBit i) (R₀, R₁)).1 (ladderStep (n.testBit i) (R₀, R₁)).2 := by
  rw [ladder, ladderStep]
  split <;> rfl

theorem ladder_eq_foldl (n i : Nat) (R : Point × Point) :
    ladder n i R.1 R.2 = ((List.range i).reverse.foldl (fun R j => ladderStep (n.testBit j) R) R).1 := by
  induction i generalizing R with
  | zero => rfl
  | succ i ih => rw [ladder_succ, ih, List.range_succ, List.reverse_concat, List.foldl_cons]

theorem testBit_kSlice (s : State) (w : Width) {i : Nat} (hi : i < Width.bits w) : (s.kSlice w).testBit i = s.k.getLsbD i := by
  rw [State.kSlice, Nat.testBit_mod_two_pow, decide_eq_true hi, Bool.true_and]
  rfl

theorem smul_kSlice_eq_foldl (P : Point) (s : State) (w : Width) : smul P (s.kSlice w) (Width.bits w) =
    ((List.range (Width.bits w)).reverse.foldl (fun R i => ladderStep (s.k.getLsbD i) R) (Point.neutral, P)).1 := by
  rw [smul, ladder_eq_foldl _ _ (Point.neutral, P)]
  congr 1
  refine List.foldl_ext _ _ _ fun R i hi => ?_
  rw [testBit_kSlice s w (by simpa using hi)]

theorem Width.bits_eq_ite (w : Width) : Width.bits w = if w = .wide then 512 else 256 := by
  cases w <;> rfl

theorem Width.bit_eq_ite (w : Width) : w.bit = if w = .wide then 1 else 0 := by
  cases w <;> rfl

/-! ### Affine points under the ladder -/

/-- Adding a tuple of the neutral keeps the affine point. -/
theorem represents_padd_neutral_left {P Q : Point} {x y : ZMod primeP} (hP : Represents P 0 1) (hQ : Represents Q x y) :
    Represents (padd P Q) x y :=
  represents_padd hP hQ (isSum_neutral_left x y)

theorem represents_pdbl_neutral {P : Point} (hP : Represents P 0 1) : Represents (pdbl P) 0 1 :=
  represents_pdbl hP (isSum_neutral_left 0 1)

section
variable {R₀ R₁ : Point} {x y : ZMod primeP} (h₀ : Represents R₀ 0 1) (h₁ : Represents R₁ x y)
include h₀ h₁

/-- While the bits are 0, the accumulators stand for the neutral and the source's point. -/
theorem represents_ladder_scalar_zero (i : Nat) : Represents (ladder 0 i R₀ R₁) 0 1 := by
  induction i generalizing R₀ R₁ with
  | zero => exact h₀
  | succ i ih =>
    rw [ladder_succ, Nat.zero_testBit]
    exact ih (represents_pdbl_neutral h₀) (represents_padd_neutral_left h₀ h₁)

/-- Scalar 1 has one bit set, the last. -/
theorem represents_ladder_scalar_one (i : Nat) : Represents (ladder 1 (i + 1) R₀ R₁) x y := by
  induction i generalizing R₀ R₁ with
  | zero => exact represents_padd_neutral_left h₀ h₁
  | succ i ih =>
    have hbit : Nat.testBit 1 (i + 1) = false := (Nat.testBit_succ 1 i).trans (Nat.zero_testBit i)
    rw [ladder_succ, hbit]
    exact ih (represents_pdbl_neutral h₀) (represents_padd_neutral_left h₀ h₁)

end

/-- Sums and doubles of the neutral are the neutral. -/
theorem represents_ladder_neutral {R₀ R₁ : Point} (h₀ : Represents R₀ 0 1) (h₁ : Represents R₁ 0 1) (n i : Nat) :
    Represents (ladder n i R₀ R₁) 0 1 := by
  induction i generalizing R₀ R₁ with
  | zero => exact h₀
  | succ i ih =>
    rw [ladder_succ]
    cases n.testBit i with
    | false => exact ih (represents_pdbl_neutral h₀) (represents_padd_neutral_left h₀ h₁)
    | true => exact ih (represents_padd_neutral_left h₀ h₁) (represents_pdbl_neutral h₁)

/-- The ladder sees the affine points of its accumulators alone. -/
theorem sameAffine_ladder {R₀ R₀' R₁ R₁' : Point} (h₀ : SameAffine R₀ R₀') (h₁ : SameAffine R₁ R₁') (n i : Nat) :
    SameAffine (ladder n i R₀ R₁) (ladder n i R₀' R₁') := by
  induction i generalizing R₀ R₀' R₁ R₁' with
  | zero => exact h₀
  | succ i ih =>
    rw [ladder_succ, ladder_succ]
    cases n.testBit i with
    | false => exact ih (sameAffine_pdbl h₀) (sameAffine_padd h₀ h₁)
    | true => exact ih (sameAffine_padd h₀ h₁) (sameAffine_pdbl h₁)

theorem sameAffine_smul {P P' : Point} (h : SameAffine P P') (n bits : Nat) :
    SameAffine (smul P n bits) (smul P' n bits) :=
  sameAffine_ladder ⟨0, 1, represents_pointNeutral, represents_pointNeutral⟩ h n bits

/-! ### The obligations -/

/-- Settles O37: the recursion on the bits is a fold over them, and the bits of the slice are those of K. -/
theorem scalarMultiplicationRunsTheLadder : Obligations.ScalarMultiplicationRunsTheLadder := by
  unfold Obligations.ScalarMultiplicationRunsTheLadder
  intro d a w s
  rw [← Width.bit_eq_ite, ← Width.bits_eq_ite]
  refine ⟨decode_encode (i := .smul d a w) rfl, _, rfl, ended_complete _ _, unchanged_complete_writeP s _ d _, ?_⟩
  rw [readP_complete, readP_writeP_same]
  exact smul_kSlice_eq_foldl (s.readP a) s w

/-- Settles O38: what the accumulators stand for along the ladder, in each of the three corners. -/
theorem scalarMultiplicationCorners : Obligations.ScalarMultiplicationCorners := by
  unfold Obligations.ScalarMultiplicationCorners
  intro d a w s t x y hsource hexec
  have hresult : t.readP d = ladder (s.kSlice w) (Width.bits w) Point.neutral (s.readP a) := by
    rw [← Host.Outcome.next.inj hexec, readP_complete, readP_writeP_same, smul]
  have hneutral := represents_pointNeutral
  rw [hresult]
  refine ⟨fun h => ?_, fun h => ?_, ?_⟩
  · rw [h]
    exact represents_ladder_scalar_zero hneutral hsource _
  · have hbits : Width.bits w = Width.bits w - 1 + 1 := by cases w <;> rfl
    rw [h, hbits]
    exact represents_ladder_scalar_one hneutral hsource _
  · rintro rfl rfl
    exact represents_ladder_neutral hneutral hsource _ _

end Sys2Proof.Machine
end

section
/-!
PROOFS. Steps and time (20_memory.md sections 1 and 3, 70_reset_and_hazards.md sections 1 and 5): what each event the step takes does,
the busy interval, and the statements about steps, reset, STATUS and the host's reach.
-/

namespace Sys2Proof.Machine

/-! ### The step takes an event or completes the latched command -/

theorem completionDue_withFetchWord (s : State) (nbits w : Nat) : CompletionDue (s.withFetchWord nbits w) :=
  .inr (.inl rfl)

theorem step_of_due {s : State} {w : Word} {i : Instr} (hc : s.cmd = some w) (hd : CompletionDue s) (hw : decode w = .ok i) :
    step s = exec i s :=
  step_of_unit_ok (turn_eq_unit hc hd) hw

theorem decode_of_decodeTableWord {nbits w : Nat} {i : Instr} (h : decodeTableWord nbits w = some i) :
    decode (BitVec.ofNat 32 (w % 2 ^ nbits)) = .ok i := by
  rw [decodeTableWord] at h
  cases hw : decode (BitVec.ofNat 32 (w % 2 ^ nbits)) with
  | ok j =>
    rw [hw] at h
    rw [Option.some.inj h]
  | error e =>
    rw [hw] at h
    cases h

/-- The reset input is taken when nothing is latched or the busy interval lasts (R290). -/
theorem turn_eq_host_reset {s : State} {rest : List HostEvent} (hi : s.inputs = .reset :: rest)
    (h : s.cmd = none ∨ 0 < s.busyLeft) : s.turn = .host .reset := by
  rw [State.turn, hi]
  cases hc : s.cmd with
  | none => rfl
  | some w =>
    cases hb : s.busyLeft with
    | zero => simp [hc, hb] at h
    | succ n => rfl

/-! ### The busy interval (R68) -/

theorem statusWord_of_busy {s : State} {w : Word} (hc : s.cmd = some w) : s.statusWord = 1 := by
  rw [State.statusWord, State.busy, hc]
  rfl

/-- A STATUS read while BUSY is answered with 1 and counted. -/
theorem takeEvent_statusRead_of_busy {s : State} {w : Word} {rest : List HostEvent} (hc : s.cmd = some w)
    (hi : s.inputs = .access (.read 32 4) :: rest) : s.takeEvent (.access (.read 32 4)) =
      { s with inputs := rest, replies := s.replies ++ [.data 1], busyLeft := s.busyLeft - 1 } := by
  have hbusy : s.busy = true := by rw [State.busy, hc]; rfl
  have hone (n : Nat) : ({ s with inputs := rest, busyLeft := n } : State).statusWord = 1 := statusWord_of_busy (w := w) hc
  rw [takeEvent_access, serve_read_ok _ (by decide), hostRead32_status, hi, List.tail_cons, hone, hbusy]
  rfl

/-- What a step with a latched command can be. -/
theorem step_of_busy {s : State} {w : Word} (hc : s.cmd = some w) :
    (∃ rest n, s.inputs = .access (.read 32 4) :: rest ∧ s.busyLeft = n + 1 ∧ step s =
      .next { s with inputs := rest, replies := s.replies ++ [.data 1], busyLeft := n }) ∨
    (∃ rest, s.inputs = .reset :: rest ∧ step s = .next (s.takeEvent .reset)) ∨
    Completes s (step s) := by
  rcases turn_cases s with ⟨hnone, -, -⟩ | ⟨e, rest, hi, hturn, hwhy⟩ | ⟨w', hc', -, hdue⟩
  · rw [hc] at hnone
    cases hnone
  · rcases hwhy with hnone | ⟨n, hn, rfl | rfl⟩
    · rw [hc] at hnone
      cases hnone
    · exact .inr (.inl ⟨rest, hi, step_of_host hturn⟩)
    · refine .inl ⟨rest, n, hi, hn, ?_⟩
      rw [step_of_host hturn, takeEvent_statusRead_of_busy hc hi, hn, Nat.add_sub_cancel]
  · exact .inr (.inr (step_completes hc' hdue))

theorem run_succ {s t : State} (n : Nat) (h : step s = .next t) :
    Host.Core.run core (n + 1) s = Host.Core.run core n t := by
  have hcore : core.step s = .next t := h
  simp only [Host.Core.run, hcore]

theorem run_one {s t : State} (h : step s = .next t) : Host.Core.run core 1 s = .next t :=
  run_succ 0 h

/-- By recursion on the events the interval still sees: each STATUS read answered is one fewer. -/
theorem latched_completes {s : State} {w : Word} (hc : s.cmd = some w) :
    ∃ n t, n ≤ s.busyLeft ∧ Host.Core.run core (n + 1) s = .next t ∧ t.cmd = none ∧
      (HostEvent.reset ∉ s.inputs → t.done = true) := by
  rcases step_of_busy hc with ⟨rest, b, hi, hb, hstep⟩ | ⟨rest, hi, hstep⟩ | ⟨t, e, hstep, hended, -⟩
  · obtain ⟨n, t, hn, hrun, hidle, hdone⟩ := latched_completes
      (s := { s with inputs := rest, replies := s.replies ++ [.data 1], busyLeft := b }) hc
    refine ⟨n + 1, t, hb ▸ Nat.succ_le_succ hn, (run_succ _ hstep).trans hrun, hidle, fun hno => hdone fun hmem => hno ?_⟩
    rw [hi]
    exact List.mem_cons_of_mem _ hmem
  · refine ⟨0, _, Nat.zero_le _, run_one hstep, rfl, fun hno => absurd ?_ hno⟩
    rw [hi]
    exact List.mem_cons_self
  · exact ⟨0, t, Nat.zero_le _, run_one hstep, hended.idle, fun _ => hended.done⟩
termination_by s.busyLeft
decreasing_by exact hb ▸ Nat.lt_succ_self b

/-! ### The window and the datapath (R69) -/

/-- The state with other contents of F, P, K and XSK. -/
def State.withDatapath (s : State) (f : Vector Fe 8) (p : Vector Point 4) (k : BitVec 512) (xsk : Vector Byte 64) : State :=
  { s with f := f, p := p, k := k, xsk := xsk }

section
variable (s : State) (f : Vector Fe 8) (p : Vector Point 4) (k : BitVec 512) (xsk : Vector Byte 64)

theorem hostRead32_withDatapath (off : Nat) : (s.withDatapath f p k xsk).hostRead32 off = s.hostRead32 off := rfl

theorem hostWrite32_withDatapath (off : Nat) (v : Word) :
    (s.withDatapath f p k xsk).hostWrite32 off v = (s.hostWrite32 off v).withDatapath f p k xsk := by
  unfold State.hostWrite32
  split <;> rfl

/-- An access is served alike whatever the datapath holds, which it leaves as it was. -/
theorem serve_withDatapath (a : HostAccess) :
    (s.withDatapath f p k xsk).serve a = (s.serve a).withDatapath f p k xsk := by
  cases a with
  | read width off =>
    simp only [State.serve, hostRead32_withDatapath]
    split <;> rfl
  | write width off v =>
    simp only [State.serve, hostWrite32_withDatapath]
    split <;> rfl

end

/-! ### What an access can do (R64, R65, R70) -/

/-- Serving an access answers it, after at most one write: of CMD, of MSGLEN, or of a word of IO or MSG. -/
theorem serve_cases (s : State) (a : HostAccess) :
    (∃ r, s.serve a = s.reply r) ∨ (∃ v, s.serve a = (s.latch v).reply .ok) ∨
    (∃ v, s.serve a = ({ s with msglen := v } : State).reply .ok) ∨
    (∃ (off : Nat) (v : Word), MappedOffset off ∧ 0x080 ≤ off ∧
      s.serve a = ({ s with mem := Memory.writeBytes s.mem off (leBytes 4 v.toNat) } : State).reply .ok) := by
  by_cases herr : AccessError a
  · exact .inl ⟨_, serve_of_accessError s herr⟩
  have hok : accessOk a.width a.off = true := by simpa [accessError_iff] using herr
  cases a with
  | read width off => exact .inl ⟨_, serve_read_ok s hok⟩
  | write width off v =>
    have hwrite : s.serve (.write width off v) = (s.hostWrite32 off v).reply .ok := serve_write_ok s v hok
    rw [hwrite]
    obtain ⟨-, halign, hrow⟩ := (accessOk_iff width off).1 hok
    by_cases hle : 0x080 ≤ off
    · have hmapped : MappedOffset off := ⟨halign, hrow⟩
      exact .inr (.inr (.inr ⟨off, v, hmapped, hle, by rw [hostWrite32_memory s v hmapped hle]⟩))
    · obtain rfl | rfl | rfl : off = 0 ∨ off = 4 ∨ off = 8 := by omega
      · exact .inr (.inl ⟨v, by rw [hostWrite32_cmd]⟩)
      · exact .inl ⟨_, by rw [hostWrite32_status]⟩
      · exact .inr (.inr (.inl ⟨v, by rw [hostWrite32_msglen]⟩))

/-- No access reaches the registers or the result flags. -/
theorem serve_keeps_datapath (s : State) (a : HostAccess) : (s.serve a).f = s.f ∧ (s.serve a).p = s.p ∧ (s.serve a).k = s.k ∧
    (s.serve a).xsk = s.xsk ∧ (s.serve a).valid = s.valid ∧ (s.serve a).eq = s.eq ∧ (s.serve a).even = s.even ∧
    (s.serve a).err = s.err := by
  rcases serve_cases s a with ⟨r, h⟩ | ⟨v, h⟩ | ⟨v, h⟩ | ⟨off, v, -, -, h⟩ <;> simp [h]

/-! ### The STATUS word (10_state.md R28) -/

theorem statusWord_of_idle {s : State} (hc : s.cmd = none) : s.statusWord =
    BitVec.ofNat 32 (s.done.toNat * 2 ^ 1 + s.ill.toNat * 2 ^ 2 + s.valid.toNat * 2 ^ 3 + s.eq.toNat * 2 ^ 4
      + s.even.toNat * 2 ^ 5 + ResultCode.code s.err * 2 ^ 8) := by
  rw [State.statusWord, State.busy, hc]
  rfl

/-- Bits 0 to 11, by evaluation at every value of the six fields. -/
theorem statusWord_low {s : State} (hc : s.cmd = none) :
    s.statusWord.getLsbD 0 = false ∧ s.statusWord.getLsbD 1 = s.done ∧ s.statusWord.getLsbD 2 = s.ill ∧
      s.statusWord.getLsbD 3 = s.valid ∧ s.statusWord.getLsbD 4 = s.eq ∧ s.statusWord.getLsbD 5 = s.even ∧
      s.statusWord.getLsbD 6 = false ∧ s.statusWord.getLsbD 7 = false ∧
      (s.statusWord.extractLsb' 8 4).toNat = ResultCode.code s.err := by
  rw [statusWord_of_idle hc]
  generalize s.done = done, s.ill = ill, s.valid = valid, s.eq = eq, s.even = even, s.err = err
  revert done ill valid eq even
  cases err <;> decide

theorem ResultCode.code_le (e : ResultCode) : e.code ≤ 5 := by
  cases e <;> decide

theorem statusWord_lt {s : State} (hc : s.cmd = none) : s.statusWord.toNat < 2 ^ 12 := by
  have hcode := ResultCode.code_le s.err
  have hdone := s.done.toNat_lt
  have hill := s.ill.toNat_lt
  have hvalid := s.valid.toNat_lt
  have heq := s.eq.toNat_lt
  have heven := s.even.toNat_lt
  rw [statusWord_of_idle hc, BitVec.toNat_ofNat]
  omega

/-! ### The obligations -/

/-- Settles O6: a due completion step is the unit's turn, and `withFetchWord` makes it due. -/
theorem stepRunsTheDecodedCommand : Obligations.StepRunsTheDecodedCommand := by
  unfold Obligations.StepRunsTheDecodedCommand
  refine ⟨fun s w i => step_of_due, fun s nbits w i h => ?_⟩
  exact step_of_due rfl (completionDue_withFetchWord s nbits w) (decode_of_decodeTableWord h)

/-- Settles O8: an event is taken, or the completion step runs, whose command completes. -/
theorem everyStepAnswersANextState : Obligations.EveryStepAnswersANextState := by
  unfold Obligations.EveryStepAnswersANextState
  intro s
  rcases turn_cases s with ⟨-, -, hturn⟩ | ⟨e, -, -, hturn, -⟩ | ⟨w, hc, -, hdue⟩
  · exact ⟨_, step_of_idle hturn⟩
  · exact ⟨_, step_of_host hturn⟩
  · obtain ⟨t, -, hstep, -, -⟩ := step_completes hc hdue
    exact ⟨t, hstep⟩

/-- Settles O14: the reset is taken, and what it keeps is the record of the outside world. -/
theorem resetInputRestoresTheResetState : Obligations.ResetInputRestoresTheResetState := by
  unfold Obligations.ResetInputRestoresTheResetState
  intro s rest hi h
  rw [step_of_host (turn_eq_host_reset hi h), State.takeEvent, hi]
  rfl

/-- Settles O9: each STATUS read answered shortens the interval, and every other step ends it. -/
theorem latchedCommandCompletes : Obligations.LatchedCommandCompletes :=
  fun _ _ => latched_completes

/-- Settles O10: the three things a step with a latched command can be. -/
theorem busyWindowAnswersOnlyStatusReads : Obligations.BusyWindowAnswersOnlyStatusReads := by
  unfold Obligations.BusyWindowAnswersOnlyStatusReads
  intro s t w hc hstep
  rcases step_of_busy hc with ⟨rest, b, hi, hb, hread⟩ | ⟨rest, hi, hreset⟩ | ⟨u, e, hdone, hended, hside⟩
  · obtain rfl := Host.Outcome.next.inj (hread.symm.trans hstep)
    exact .inl ⟨rest, hi, by rw [hb, Nat.add_sub_cancel]⟩
  · obtain rfl := Host.Outcome.next.inj (hreset.symm.trans hstep)
    exact .inr (.inl ⟨by rw [hi, List.head?_cons], rfl, rfl⟩)
  · obtain rfl := Host.Outcome.next.inj (hdone.symm.trans hstep)
    exact .inr (.inr ⟨hended.idle, hended.done, hside.inputs, hside.replies⟩)

/-- Settles O16: serving the access commutes with a change of the datapath, and writes none of the registers or flags. -/
theorem hostAccessesDoNotReachTheDatapath : Obligations.HostAccessesDoNotReachTheDatapath := by
  unfold Obligations.HostAccessesDoNotReachTheDatapath
  intro s s' t t' a rest hc hi hs' hstep hstep'
  have hserve (u : State) (hcu : u.cmd = none) (hiu : u.inputs = .access a :: rest) {v : State} (h : step u = .next v) :
      v = ({ u with inputs := rest } : State).serve a :=
    (Host.Outcome.next.inj ((step_of_idle_access hcu hiu).symm.trans h)).symm
  have ht := hserve s hc hi hstep
  have ht' := hserve s' (hs' ▸ hc) (hs' ▸ hi) hstep'
  have hdata : ({ s' with inputs := rest } : State) = ({ s with inputs := rest } : State).withDatapath s'.f s'.p s'.k s'.xsk := by
    rw [hs']
    rfl
  refine ⟨?_, ?_⟩
  · rw [ht, ht', hdata, serve_withDatapath]
    rfl
  · obtain ⟨hf, hp, hk, hxsk, hvalid, heq, heven, herr⟩ := serve_keeps_datapath { s with inputs := rest } a
    rw [ht]
    exact ⟨hf, hp, hk, hxsk, hvalid, heq, heven, herr, serve_ill _ a⟩

/-- Settles O15: the low twelve bits by evaluation at every value of the fields, the others because the word is below 2^12. -/
theorem statusWordHoldsItsFields : Obligations.StatusWordHoldsItsFields := by
  unfold Obligations.StatusWordHoldsItsFields
  intro s
  constructor
  · intro hc
    obtain ⟨w, hw⟩ := Option.ne_none_iff_exists'.1 hc
    exact statusWord_of_busy hw
  · intro hc
    have hhigh (i : Nat) (hi : 12 ≤ i) : s.statusWord.getLsbD i = false :=
      Nat.testBit_lt_two_pow ((statusWord_lt hc).trans_le (Nat.pow_le_pow_right (by decide) hi))
    obtain ⟨h0, h1, h2, h3, h4, h5, h6, h7, hcode⟩ := statusWord_low hc
    exact ⟨h0, h1, h2, h3, h4, h5, h6, h7, by cases herr : s.err <;> rw [hcode, herr] <;> rfl, hhigh⟩

end Sys2Proof.Machine
end

section
/-!
PROOFS. Signing and verifying (43_sequencer.md R227 to R231): what the body of SIGNP writes and what it reads, the checks of VERIFY in
their order, and the statements about SIGNP, SIGN and VERIFY.
-/

namespace Sys2Proof.Machine

/-! ### The signature (R227) -/

theorem orderL_lt : orderL < 256 ^ 32 := by decide

@[simp] theorem length_signatureR (nonceKey m : List Byte) : (signatureR nonceKey m).length = 32 := by
  rw [signatureR, length_penc]

@[simp] theorem length_signatureS (scalarBytes nonceKey pk m : List Byte) : (signatureS scalarBytes nonceKey pk m).length = 32 := by
  rw [signatureS, length_leBytes]

theorem signatureR_eq (nonceKey m : List Byte) :
    signatureR nonceKey m = penc (smul basePoint (leInt (Config.sha512 (nonceKey ++ m)).toList % orderL) 256) := by
  rw [signatureR, nonceScalar, hashOf]

/-- S is the residue itself: it is below L, so 32 bytes hold it. -/
theorem leInt_signatureS (scalarBytes nonceKey pk m : List Byte) : leInt (signatureS scalarBytes nonceKey pk m) =
    (leInt (Config.sha512 (signatureR nonceKey m ++ pk ++ m)).toList % orderL * leInt scalarBytes +
      leInt (Config.sha512 (nonceKey ++ m)).toList % orderL) % orderL := by
  have hlt (n : Nat) : n % orderL < 256 ^ 32 := (Nat.mod_lt n (by decide)).trans orderL_lt
  rw [signatureS, leInt_leBytes, Nat.mod_eq_of_lt (hlt _), nonceScalar, hashOf, hashOf]

/-! ### What the slots and the message do not see -/

section
variable (s : State) (sl : Slot)

@[simp] theorem readSlot_send (ms : List (List Byte)) : (s.send ms).readSlot sl = s.readSlot sl := rfl

theorem readSlot_writeSlot_send (ms : List (List Byte)) (sl' : Slot) (b : List Byte) :
    ((s.send ms).writeSlot sl' b).readSlot sl = (s.writeSlot sl' b).readSlot sl := rfl

@[simp] theorem readSlot_writeXsk (v : Vector Byte 64) : (s.writeXsk v).readSlot sl = s.readSlot sl := rfl

@[simp] theorem message_send (ms : List (List Byte)) : (s.send ms).message = s.message := rfl

@[simp] theorem message_writeXsk (v : Vector Byte 64) : (s.writeXsk v).message = s.message := rfl

@[simp] theorem message_scrub : s.scrub.message = s.message := rfl

variable {s} in
theorem wf_writeSlot (b : List Byte) (h : Memory.wf s.mem) : Memory.wf (s.writeSlot sl b).mem :=
  Memory.wf_writeBytes _ b h

end

/-! ### The body of SIGNP (R227) -/

section
variable (s : State)

theorem message_eq : s.message = Memory.readBytes s.mem 0x1000 s.msglen.toNat := rfl

theorem signBody_eq : s.signBody = (((s.send [s.xskNonceKey ++ s.message,
    signatureR s.xskNonceKey s.message ++ s.readSlot 2 ++ s.message]).writeSlot 0 (signatureR s.xskNonceKey s.message)).writeSlot 1
      (signatureS s.xskScalar s.xskNonceKey (s.readSlot 2) s.message)).scrub := rfl

theorem signBody_xsk : s.signBody.xsk = s.xsk := by
  simp [signBody_eq]

theorem signBody_hashSent : s.signBody.hashSent = s.hashSent ++ [s.xskNonceKey ++ s.message,
    signatureR s.xskNonceKey s.message ++ s.readSlot 2 ++ s.message] := by
  simp [signBody_eq]

theorem scrubbed_signBody : Scrubbed s.signBody := by
  rw [signBody_eq]
  exact scrubbed_scrub _

theorem signBody_complete (e e' : ResultCode) : (s.complete e).signBody.complete e' = s.signBody.complete e' := by
  have hmessage : (s.complete e).message = s.message := rfl
  have hnonce : (s.complete e).xskNonceKey = s.xskNonceKey := rfl
  have hscalar : (s.complete e).xskScalar = s.xskScalar := rfl
  rw [signBody_eq, signBody_eq, readSlot_complete, hmessage, hnonce, hscalar]
  generalize signatureR s.xskNonceKey s.message = Rb, signatureS _ _ _ _ = Sb
  rfl

/-- The frame of a signature, whatever its two halves are. -/
theorem unchanged_complete_scrub_writeSlot_writeSlot (e : ResultCode) (ms : List (List Byte)) {b₀ b₁ : List Byte}
    (h : Memory.wf s.mem) (h₀ : b₀.length = 32) (h₁ : b₁.length = 32) :
    Unchanged { scrubTouches with bytes := within (slotOffset 0) 64, hashSent := true } s
      ((((s.send ms).writeSlot 0 b₀).writeSlot 1 b₁).scrub.complete e) := by
  constructor
  case bytes =>
    intro a ha
    have hout : ¬(slotOffset 0 ≤ a ∧ a < slotOffset 0 + 64) := by simpa [within] using ha
    have hR : ¬(slotOffset (0 : Slot).val ≤ a ∧ a < slotOffset (0 : Slot).val + 32) :=
      fun hin => hout ⟨hin.1, hin.2.trans_le (by decide)⟩
    have hS : ¬(slotOffset (1 : Slot).val ≤ a ∧ a < slotOffset (1 : Slot).val + 32) := by
      simp only [slotOffset, Fin.val_one] at hout ⊢
      omega
    rw [complete_mem, scrub_mem, read_writeSlot _ 1 b₁ a (wf_writeSlot 0 _ (by simpa using h)), h₁, if_neg hS,
      read_writeSlot _ 0 b₀ a (by simpa using h), h₀, if_neg hR, send_mem]
  all_goals simp [scrubTouches]

section
variable {s} (h : Memory.wf s.mem)
include h

theorem wf_deriveBody : Memory.wf s.deriveBody.mem := by
  rw [deriveBody_eq, scrub_mem]
  exact wf_writeSlot 2 _ (by simpa using h)

theorem signBody_readSlot_S : s.signBody.readSlot 1 = signatureS s.xskScalar s.xskNonceKey (s.readSlot 2) s.message := by
  rw [signBody_eq, readSlot_scrub, readSlot_writeSlot_same _ 1 _ (wf_writeSlot 0 _ (by simpa using h)) (by simp)]

theorem signBody_readSlot_of_ne_S {sl : Slot} (h₁ : sl ≠ 1) : s.signBody.readSlot sl =
    (s.writeSlot 0 (signatureR s.xskNonceKey s.message)).readSlot sl := by
  rw [signBody_eq, readSlot_scrub, readSlot_writeSlot_ne _ _ (wf_writeSlot 0 _ (by simpa using h)) (by simp) h₁,
    readSlot_writeSlot_send]

theorem signBody_readSlot_R : s.signBody.readSlot 0 = signatureR s.xskNonceKey s.message := by
  rw [signBody_readSlot_of_ne_S h (by decide), readSlot_writeSlot_same s 0 _ h (by simp)]

theorem signBody_readSlot_of_ne {sl : Slot} (h₀ : sl ≠ 0) (h₁ : sl ≠ 1) : s.signBody.readSlot sl = s.readSlot sl := by
  rw [signBody_readSlot_of_ne_S h h₁, readSlot_writeSlot_ne s _ h (by simp) h₀]

theorem deriveBody_readSlot_of_ne {sl : Slot} (h₂ : sl ≠ 2) : s.deriveBody.readSlot sl = s.readSlot sl := by
  rw [deriveBody_eq, readSlot_scrub, readSlot_writeSlot_ne _ _ (by simpa using h) (length_publicKey _) h₂, readSlot_writeXsk,
    readSlot_send]

theorem deriveBody_message : s.deriveBody.message = s.message := by
  rw [deriveBody_eq, message_scrub, message_writeSlot _ 2 _ (by simpa using h) (length_publicKey _), message_writeXsk, message_send]

theorem unchanged_complete_signBody (e : ResultCode) :
    Unchanged { scrubTouches with bytes := within (slotOffset 0) 64, hashSent := true } s (s.signBody.complete e) := by
  rw [signBody_eq]
  exact unchanged_complete_scrub_writeSlot_writeSlot s e _ h (length_signatureR _ _) (length_signatureS _ _ _ _)

end

end

/-! ### The length check passed (R224) -/

section
variable {s : State}

theorem lengthOk_iff : s.lengthOk = true ↔ s.msglen.toNat ≤ Config.msgMax := decide_eq_true_iff

variable (h : s.msglen.toNat ≤ Config.msgMax)
include h

theorem exec_signp_of_length : exec .signp s = .next (s.signBody.complete .ok) := if_pos (lengthOk_iff.2 h)

theorem exec_sign_of_length : exec .sign s = .next (s.deriveBody.signBody.complete .ok) := if_pos (lengthOk_iff.2 h)

theorem exec_verify_of_length : exec .verify s =
    .next (((s.send (verifyRequests (s.readSlot 0) (s.readSlot 1) (s.readSlot 2) s.message)).scrub).complete
      (verifyResult (s.readSlot 0) (s.readSlot 1) (s.readSlot 2) s.message)) := if_pos (lengthOk_iff.2 h)

end

/-! ### Frames one after the other -/

/-- Everything `w` names is named by `v`. -/
structure Touches.Within (w v : Touches) : Prop where
  f : ∀ r, v.f r = false → w.f r = false
  p : ∀ r, v.p r = false → w.p r = false
  bytes : ∀ a, v.bytes a = false → w.bytes a = false
  k : v.k = false → w.k = false
  xsk : v.xsk = false → w.xsk = false
  msglen : v.msglen = false → w.msglen = false
  valid : v.valid = false → w.valid = false
  eq : v.eq = false → w.eq = false
  even : v.even = false → w.even = false
  hashSent : v.hashSent = false → w.hashSent = false

theorem Unchanged.trans_within {w w' v : Touches} {s t u : State} (h : Unchanged w s t) (h' : Unchanged w' t u)
    (hw : w.Within v) (hw' : w'.Within v) : Unchanged v s u where
  f r hr := (h'.f r (hw'.f r hr)).trans (h.f r (hw.f r hr))
  p r hr := (h'.p r (hw'.p r hr)).trans (h.p r (hw.p r hr))
  bytes a ha := (h'.bytes a (hw'.bytes a ha)).trans (h.bytes a (hw.bytes a ha))
  k hv := (h'.k (hw'.k hv)).trans (h.k (hw.k hv))
  xsk hv := (h'.xsk (hw'.xsk hv)).trans (h.xsk (hw.xsk hv))
  msglen hv := (h'.msglen (hw'.msglen hv)).trans (h.msglen (hw.msglen hv))
  valid hv := (h'.valid (hw'.valid hv)).trans (h.valid (hw.valid hv))
  eq hv := (h'.eq (hw'.eq hv)).trans (h.eq (hw.eq hv))
  even hv := (h'.even (hw'.even hv)).trans (h.even (hw.even hv))
  hashSent hv := (h'.hashSent (hw'.hashSent hv)).trans (h.hashSent (hw.hashSent hv))
  ill := h'.ill.trans h.ill
  inputs := h'.inputs.trans h.inputs
  replies := h'.replies.trans h.replies
  busyLeft := h'.busyLeft.trans h.busyLeft
  latches := h'.latches.trans h.latches

/-- SIGN writes what DERIVE writes and what SIGNP writes (R228). -/
theorem unchanged_complete_signBody_deriveBody {s : State} (e : ResultCode) (h : Memory.wf s.mem) :
    Unchanged { scrubTouches with bytes := within (slotOffset 0) 96, xsk := true, hashSent := true } s
      (s.deriveBody.signBody.complete e) := by
  have hsplit (off n a : Nat) (hlo : slotOffset 0 ≤ off) (hhi : off + n ≤ slotOffset 0 + 96)
      (ha : within (slotOffset 0) 96 a = false) : within off n a = false := by
    simp only [within, Bool.and_eq_false_iff, decide_eq_false_iff_not] at ha ⊢
    omega
  have hwf : Memory.wf (s.deriveBody.complete .ok).mem := by
    rw [complete_mem]
    exact wf_deriveBody h
  rw [← signBody_complete _ .ok]
  refine (unchanged_complete_deriveBody s .ok h).trans_within (unchanged_complete_signBody hwf e) ?_ ?_
  · constructor
    case bytes => exact fun a => hsplit _ _ a (by decide) (by decide)
    all_goals simp [scrubTouches]
  · constructor
    case bytes => exact fun a => hsplit _ _ a (by decide) (by decide)
    all_goals simp [scrubTouches]

/-! ### The checks of VERIFY (R229, R232) -/

section
variable {Rb Sb Ab : List Byte}

theorem verifyPoints_of_no_R (h : pdec Rb = none) : verifyPoints Rb Sb Ab = .error .badSignature := by
  rw [verifyPoints, h]

variable {R : Point} (hR : pdec Rb = some R)
include hR

theorem verifyPoints_of_large_S (hS : Config.strictS = true ∧ orderL ≤ leInt Sb) :
    verifyPoints Rb Sb Ab = .error .badSignature := by
  simp [verifyPoints, hR, hS]

variable (hS : ¬(Config.strictS = true ∧ orderL ≤ leInt Sb))
include hS

theorem verifyPoints_of_no_A (hA : pdec Ab = none) : verifyPoints Rb Sb Ab = .error .badPublicKey := by
  have hcheck : ¬(Config.strictS && decide (orderL ≤ leInt Sb)) = true := by simpa using hS
  simp only [verifyPoints, hR, if_neg hcheck, hA]

theorem verifyPoints_of_A {A : Point} (hA : pdec Ab = some A) : verifyPoints Rb Sb Ab = .ok (R, A) := by
  have hcheck : ¬(Config.strictS && decide (orderL ≤ leInt Sb)) = true := by simpa using hS
  simp only [verifyPoints, hR, if_neg hcheck, hA]

end

section
variable {Rb Sb Ab : List Byte} (m : List Byte)

/-- A check that fails is the outcome, and nothing is hashed. -/
theorem verify_of_error {e : ResultCode} (h : verifyPoints Rb Sb Ab = .error e) :
    verifyResult Rb Sb Ab m = e ∧ verifyRequests Rb Sb Ab m = [] := by
  rw [verifyResult, verifyRequests, h]
  exact ⟨rfl, rfl⟩

/-- With both points decoded one string is hashed and the equation decides. -/
theorem verify_of_ok {R A : Point} (h : verifyPoints Rb Sb Ab = .ok (R, A)) :
    verifyResult Rb Sb Ab m = (if verifyEquation R A (leInt Sb) (leInt (hashOf (Rb ++ Ab ++ m))) then .ok
      else .signatureNotMatchMessage) ∧ verifyRequests Rb Sb Ab m = [Rb ++ Ab ++ m] := by
  rw [verifyResult, verifyRequests, h]
  exact ⟨rfl, rfl⟩

end

theorem unchanged_complete_scrub_send (s : State) (e : ResultCode) (ms : List (List Byte)) :
    Unchanged { scrubTouches with hashSent := true } s ((s.send ms).scrub.complete e) := by
  constructor <;> simp [scrubTouches]

/-! ### What the outputs depend on (R220, R231) -/

/-- The two halves of a signature, from XSK, the public key and the message. -/
theorem signBody_slots_congr {s s' : State} (h : Memory.wf s.mem) (h' : Memory.wf s'.mem) (hxsk : s.xsk = s'.xsk)
    (hkey : s.readSlot 2 = s'.readSlot 2) (hm : s.message = s'.message) :
    s.signBody.readSlot 0 = s'.signBody.readSlot 0 ∧ s.signBody.readSlot 1 = s'.signBody.readSlot 1 := by
  have hnonce : s.xskNonceKey = s'.xskNonceKey := by rw [State.xskNonceKey, hxsk, ← State.xskNonceKey]
  have hscalar : s.xskScalar = s'.xskScalar := by rw [State.xskScalar, hxsk, ← State.xskScalar]
  rw [signBody_readSlot_R h, signBody_readSlot_R h', signBody_readSlot_S h, signBody_readSlot_S h', hnonce, hscalar, hkey, hm]
  exact ⟨rfl, rfl⟩

/-- SIGN reads the seed and the message. -/
theorem signBody_deriveBody_congr {s s' : State} (h : Memory.wf s.mem) (h' : Memory.wf s'.mem)
    (hseed : s.readSlot 3 = s'.readSlot 3) (hm : s.message = s'.message) :
    (∀ sl : Slot, s.deriveBody.signBody.readSlot sl = s'.deriveBody.signBody.readSlot sl) ∧
      s.deriveBody.signBody.xsk = s'.deriveBody.signBody.xsk := by
  have hwf := wf_deriveBody h
  have hwf' := wf_deriveBody h'
  have hxsk : s.deriveBody.xsk = s'.deriveBody.xsk := by rw [deriveBody_xsk, deriveBody_xsk, hseed]
  have hkey : s.deriveBody.readSlot 2 = s'.deriveBody.readSlot 2 := by
    rw [deriveBody_readSlot_key s h, deriveBody_readSlot_key s' h', hseed]
  have hkeep : s.deriveBody.readSlot 3 = s'.deriveBody.readSlot 3 := by
    rw [deriveBody_readSlot_of_ne h (by decide), deriveBody_readSlot_of_ne h' (by decide), hseed]
  have hmessage : s.deriveBody.message = s'.deriveBody.message := by rw [deriveBody_message h, deriveBody_message h', hm]
  obtain ⟨hR, hS⟩ := signBody_slots_congr hwf hwf' hxsk hkey hmessage
  refine ⟨fun sl => ?_, by rw [signBody_xsk, signBody_xsk, hxsk]⟩
  obtain rfl | rfl | rfl | rfl : sl = 0 ∨ sl = 1 ∨ sl = 2 ∨ sl = 3 := by
    revert sl
    decide
  · exact hR
  · exact hS
  · rw [signBody_readSlot_of_ne hwf (by decide) (by decide), signBody_readSlot_of_ne hwf' (by decide) (by decide), hkey]
  · rw [signBody_readSlot_of_ne hwf (by decide) (by decide), signBody_readSlot_of_ne hwf' (by decide) (by decide), hkeep]

/-! ### The obligations -/

/-- Settles O47: the two halves as `signatureR` and `signatureS` of XSK, slot 2 and the message. -/
theorem signpWritesTheSignature : Obligations.SignpWritesTheSignature := by
  unfold Obligations.SignpWritesTheSignature
  intro s hwf hlen
  refine ⟨decode_encode (i := .signp) rfl, _, exec_signp_of_length hlen, ended_complete _ _,
    scrubbed_complete _ (scrubbed_signBody s), unchanged_complete_signBody hwf _, ?_⟩
  rintro nonceKey m Rb a r k hnonce ha hm rfl hR rfl
  have hnonce' : s.xskNonceKey = nonceKey := hnonce.symm
  have hscalar : leInt s.xskScalar = a := ha.symm
  have hm' : s.message = m := hm.symm
  have hR' : signatureR nonceKey m = Rb := (signatureR_eq _ _).trans hR.symm
  rw [readSlot_complete, readSlot_complete, complete_hashSent, signBody_readSlot_R hwf, signBody_readSlot_S hwf, signBody_hashSent,
    leInt_signatureS, hnonce', hm', hscalar, hR']
  exact ⟨rfl, rfl, rfl⟩

/-- Settles O48: completing DERIVE changes nothing that the body of SIGNP reads or keeps. -/
theorem signIsDeriveThenSignp : Obligations.SignIsDeriveThenSignp := by
  unfold Obligations.SignIsDeriveThenSignp
  intro s hwf hlen
  refine ⟨decode_encode (i := .sign) rfl, fun t ht => ?_, _, exec_sign_of_length hlen, ended_complete _ _,
    scrubbed_complete _ (scrubbed_signBody _), unchanged_complete_signBody_deriveBody _ hwf⟩
  obtain rfl := Host.Outcome.next.inj ht
  have hlen' : (s.deriveBody.complete .ok).msglen.toNat ≤ Config.msgMax := by
    rwa [(unchanged_complete_deriveBody s .ok hwf).msglen rfl]
  rw [exec_sign_of_length hlen, exec_signp_of_length hlen', signBody_complete]

/-- Settles O49: the outcome and the requests of each check, in the order of R229. -/
theorem verifyReportsTheFirstFailure : Obligations.VerifyReportsTheFirstFailure := by
  unfold Obligations.VerifyReportsTheFirstFailure
  intro s hlen
  refine ⟨decode_encode (i := .verify) rfl, _, exec_verify_of_length hlen, ⟨rfl, rfl, rfl⟩,
    scrubbed_complete _ (scrubbed_scrub _), unchanged_complete_scrub_send s _ _, ?_⟩
  rw [complete_err, complete_hashSent, scrub_hashSent, send_hashSent]
  have hfail {e : ResultCode} (h : verifyPoints (s.readSlot 0) (s.readSlot 1) (s.readSlot 2) = .error e) :
      verifyResult (s.readSlot 0) (s.readSlot 1) (s.readSlot 2) s.message = e ∧
        s.hashSent ++ verifyRequests (s.readSlot 0) (s.readSlot 1) (s.readSlot 2) s.message = s.hashSent := by
    obtain ⟨hresult, hrequests⟩ := verify_of_error s.message h
    rw [hresult, hrequests, List.append_nil]
    exact ⟨rfl, rfl⟩
  refine ⟨fun hR => hfail (verifyPoints_of_no_R hR), fun R hR => ⟨fun hS => hfail (verifyPoints_of_large_S hR hS), fun hS =>
    ⟨fun hA => hfail (verifyPoints_of_no_A hR hS hA), ?_⟩⟩⟩
  rintro A hA _ _ rfl rfl
  obtain ⟨hresult, hrequests⟩ := verify_of_ok s.message (verifyPoints_of_A hR hS hA)
  rw [hresult, hrequests, verifyEquation, hashOf, message_eq]
  exact ⟨rfl, rfl⟩

/-- Settles O52: each output is written as a function of the inputs its rule names. -/
theorem sequencerOutputsDependOnItsInputsOnly : Obligations.SequencerOutputsDependOnItsInputsOnly := by
  unfold Obligations.SequencerOutputsDependOnItsInputsOnly
  intro s s' t t' hwf hwf' hmsglen hlen hm
  have hlen' : s'.msglen.toNat ≤ Config.msgMax := hmsglen ▸ hlen
  refine ⟨fun hseed ht ht' => ?_, fun hxsk hkey ht ht' => ?_, fun hR hS hA ht ht' => ?_⟩
  · rw [exec_sign_of_length hlen, Host.Outcome.next.injEq] at ht
    rw [exec_sign_of_length hlen', Host.Outcome.next.injEq] at ht'
    subst ht ht'
    obtain ⟨hslots, hxsk⟩ := signBody_deriveBody_congr hwf hwf' hseed hm
    simp only [readSlot_complete, complete_xsk, complete_err, and_true]
    exact ⟨hslots, hxsk⟩
  · rw [exec_signp_of_length hlen, Host.Outcome.next.injEq] at ht
    rw [exec_signp_of_length hlen', Host.Outcome.next.injEq] at ht'
    subst ht ht'
    obtain ⟨hR, hS⟩ := signBody_slots_congr hwf hwf' hxsk hkey hm
    simp only [readSlot_complete, complete_err, and_true]
    exact ⟨hR, hS⟩
  · rw [exec_verify_of_length hlen, Host.Outcome.next.injEq] at ht
    rw [exec_verify_of_length hlen', Host.Outcome.next.injEq] at ht'
    subst ht ht'
    rw [complete_err, complete_err, hR, hS, hA, hm]

end Sys2Proof.Machine
end

section
/-!
PROOFS. What every step keeps (10_state.md sections 3 and 6, 20_memory.md sections 1 and 3): memory in canonical form and inside IO and
MSG, DONE = 0 while BUSY, valid points in the point registers.
-/

namespace Sys2Proof.Machine

/-! ### What a command or a step keeps -/

/-- The outcome is a next state with the property. -/
def NextMeets (I : State → Prop) (r : Result) : Prop := ∃ t, r = .next t ∧ I t

theorem nextMeets_next {I : State → Prop} {t : State} (h : I t) : NextMeets I (.next t) := ⟨t, rfl, h⟩

theorem nextMeets_ite {I : State → Prop} {c : Prop} [Decidable c] {r r' : Result} (h : c → NextMeets I r)
    (h' : ¬c → NextMeets I r') : NextMeets I (if c then r else r') := by
  split
  · exact h ‹_›
  · exact h' ‹_›

/-- A property that every event, every command and an illegal word keep is kept by every step. -/
theorem step_keeps {I : State → Prop} (hreset : ∀ s, I s → I (s.takeEvent .reset))
    (haccess : ∀ s a, I s → I (s.takeEvent (.access a))) (hillegal : ∀ s, I s → I s.illegal)
    (hexec : ∀ i s, I s → NextMeets I (exec i s)) {s t : State} (h : I s) (hstep : step s = .next t) : I t := by
  rcases turn_cases s with ⟨-, -, hturn⟩ | ⟨e, -, -, hturn, -⟩ | ⟨w, -, hturn, -⟩
  · rw [step_of_idle hturn] at hstep
    exact Host.Outcome.next.inj hstep ▸ h
  · rw [step_of_host hturn] at hstep
    rw [← Host.Outcome.next.inj hstep]
    cases e with
    | reset => exact hreset s h
    | access a => exact haccess s a h
  · cases hw : decode w with
    | ok i =>
      obtain ⟨u, hu, hI⟩ := hexec i s h
      rw [step_of_unit_ok hturn hw, hu] at hstep
      exact Host.Outcome.next.inj hstep ▸ hI
    | error e =>
      rw [step_of_unit_error hturn hw] at hstep
      exact Host.Outcome.next.inj hstep ▸ hillegal s h

/-! ### Memory under commands (20_memory.md R60, R61, R71) -/

/-- A property of memory that holds of the empty one and that a byte string stored inside IO keeps. -/
structure KeptBySlotWrites (M : Memory → Prop) : Prop where
  nil : M []
  write : ∀ (m : Memory) (sl : Slot) (b : List Byte), M m → 32 * sl.val + b.length ≤ 128 →
    M (Memory.writeBytes m (slotOffset sl.val) b)

section
variable {M : Memory → Prop} {s : State}

theorem nextMeets_complete_mem (e : ResultCode) (h : M s.mem) : NextMeets (fun t => M t.mem) (.next (s.complete e)) :=
  ⟨_, rfl, h⟩

variable (hM : KeptBySlotWrites M)
include hM

theorem KeptBySlotWrites.writeSlot (sl : Slot) (b : List Byte) (h : M s.mem) (hb : 32 * sl.val + b.length ≤ 128) :
    M (s.writeSlot sl b).mem :=
  hM.write s.mem sl b h hb

theorem KeptBySlotWrites.writeSlot_of_length {sl : Slot} {b : List Byte} (h : M s.mem) (hb : b.length = 32) :
    M (s.writeSlot sl b).mem :=
  hM.writeSlot sl b h (by omega)

theorem KeptBySlotWrites.deriveBody (h : M s.mem) : M s.deriveBody.mem := by
  rw [deriveBody_eq, scrub_mem]
  exact hM.writeSlot_of_length (by simpa using h) (length_publicKey _)

theorem KeptBySlotWrites.signBody (h : M s.mem) : M s.signBody.mem := by
  rw [signBody_eq, scrub_mem]
  exact hM.writeSlot_of_length (hM.writeSlot_of_length (by simpa using h) (length_signatureR _ _)) (length_signatureS _ _ _ _)

/-- No command stores outside IO. -/
theorem exec_keeps_memory (i : Instr) (h : M s.mem) : NextMeets (fun t => M t.mem) (exec i s) := by
  have hpair {sl : Slot} (hfits : sl.pairFits = true) {b : List Byte} (hb : b.length ≤ 64) : M (s.writeSlot sl b).mem := by
    rw [pairFits_iff] at hfits
    exact hM.writeSlot sl b h (by omega)
  have hill : NextMeets (fun t => M t.mem) (.next s.illegal) := ⟨_, rfl, h⟩
  have hlength : NextMeets (fun t => M t.mem) (.next (s.complete .badLength)) := ⟨_, rfl, h⟩
  cases i with
  | fsqrt d e a =>
    refine nextMeets_ite (fun _ => hill) fun _ => ?_
    split
    · exact nextMeets_complete_mem _ (by simpa using h)
    · exact nextMeets_complete_mem _ (by simpa using h)
  | paff d e a => exact nextMeets_ite (fun _ => hill) fun _ => nextMeets_complete_mem _ (by simpa using h)
  | pfaf d a b =>
    cases hpoint : pfaf (s.readF a) (s.readF b) with
    | none => exact ⟨_, exec_pfaf_of_none d hpoint, h⟩
    | some P => exact ⟨_, exec_pfaf_of_some d hpoint, h⟩
  | pdec d sl =>
    cases hpoint : pdec (s.readSlot sl) with
    | none => exact ⟨_, exec_pdec_of_none d hpoint, h⟩
    | some P => exact ⟨_, exec_pdec_of_some d hpoint, h⟩
  | fst a sl => exact nextMeets_complete_mem _ (hM.writeSlot_of_length h (length_leBytes _ _))
  | penc a sl => exact nextMeets_complete_mem _ (hM.writeSlot_of_length h (length_penc _))
  | kld sl w | xld sl => exact nextMeets_ite (fun _ => nextMeets_complete_mem _ (by simpa using h)) fun _ => hill
  | kst sl w =>
    refine nextMeets_ite (fun hfits => nextMeets_complete_mem _ ?_) fun _ => hill
    cases w with
    | narrow => exact hM.writeSlot_of_length h (length_leBytes _ _)
    | wide => exact hpair hfits (length_leBytes _ _).le
  | xst sl => exact nextMeets_ite (fun hfits => nextMeets_complete_mem _ (hpair hfits (by simp))) fun _ => hill
  | derive => exact nextMeets_complete_mem _ (hM.deriveBody h)
  | sign => exact nextMeets_ite (fun _ => nextMeets_complete_mem _ (hM.signBody (hM.deriveBody h))) fun _ => hlength
  | signp => exact nextMeets_ite (fun _ => nextMeets_complete_mem _ (hM.signBody h)) fun _ => hlength
  | verify => exact nextMeets_ite (fun _ => nextMeets_complete_mem _ (by simpa using h)) fun _ => hlength
  | clr => exact nextMeets_complete_mem _ hM.nil
  | _ => exact nextMeets_complete_mem _ (by simpa using h)

end

theorem keptBySlotWrites_wf : KeptBySlotWrites Memory.wf :=
  ⟨Memory.wf_nil, fun _ _ b h _ => Memory.wf_writeBytes _ b h⟩

/-! ### Memory inside IO and MSG -/

/-- Canonical form, listing only bytes of IO and MSG. -/
def MemoryOk (m : Memory) : Prop := Memory.wf m ∧ ∀ c ∈ m, inIO c.1 || inMSG c.1

theorem memoryOk_nil : MemoryOk [] := ⟨Memory.wf_nil, fun _ hc => absurd hc List.not_mem_nil⟩

theorem memoryOk_writeBytes {m : Memory} {off : Nat} {b : List Byte} (h : MemoryOk m)
    (hb : ∀ a, off ≤ a → a < off + b.length → inIO a || inMSG a) : MemoryOk (Memory.writeBytes m off b) := by
  obtain ⟨hwf, hmapped⟩ := h
  refine ⟨Memory.wf_writeBytes off b hwf, fun c hc => ?_⟩
  rcases Memory.mem_writeBytes hc with hold | ⟨hlo, hhi⟩
  · exact hmapped c hold
  · exact hb c.1 hlo hhi

theorem keptBySlotWrites_memoryOk : KeptBySlotWrites MemoryOk where
  nil := memoryOk_nil
  write m sl b h hb := by
    refine memoryOk_writeBytes h fun a hlo hhi => ?_
    simp only [slotOffset] at hlo hhi
    simp only [inIO, Bool.or_eq_true, Bool.and_eq_true, decide_eq_true_eq]
    omega

/-- A word of IO or MSG, at an offset that is a multiple of 4, has all its four bytes there (R61, R63). -/
theorem memoryOk_writeWord {m : Memory} {off : Nat} (v : Word) (h : MemoryOk m) (hoff : MappedOffset off) (hle : 0x080 ≤ off) :
    MemoryOk (Memory.writeBytes m off (leBytes 4 v.toNat)) := by
  obtain ⟨halign, hrow⟩ := hoff
  have hmax := msgMax_mod
  refine memoryOk_writeBytes h fun a hlo hhi => ?_
  rw [length_leBytes] at hhi
  simp only [inIO, inMSG, Bool.or_eq_true, Bool.and_eq_true, decide_eq_true_eq]
  omega

/-! ### The invariant -/

theorem inv_iff (s : State) : Inv s ↔ MemoryOk s.mem ∧ (s.cmd.isSome → s.done = false) :=
  ⟨fun h => ⟨⟨h.memory, h.mapped⟩, h.latched⟩, fun ⟨⟨hwf, hmapped⟩, hlatched⟩ => ⟨hwf, hmapped, hlatched⟩⟩

theorem inv_takeEvent_access {s : State} (a : HostAccess) (h : Inv s) : Inv (s.takeEvent (.access a)) := by
  obtain ⟨hmem, hlatched⟩ := (inv_iff s).1 h
  rw [takeEvent_access, inv_iff]
  rcases serve_cases _ a with ⟨r, hserve⟩ | ⟨v, hserve⟩ | ⟨v, hserve⟩ | ⟨off, v, hoff, hle, hserve⟩ <;> rw [hserve]
  · exact ⟨hmem, hlatched⟩
  · exact ⟨hmem, fun _ => rfl⟩
  · exact ⟨hmem, hlatched⟩
  · exact ⟨memoryOk_writeWord v hmem hoff hle, hlatched⟩

theorem exec_keeps_inv (i : Instr) {s : State} (h : Inv s) : NextMeets Inv (exec i s) := by
  obtain ⟨hmem, -⟩ := (inv_iff s).1 h
  obtain ⟨t, ht, hok⟩ := exec_keeps_memory keptBySlotWrites_memoryOk i hmem
  obtain ⟨u, e, hu, hended, -⟩ := exec_completes i s
  obtain rfl := Host.Outcome.next.inj (ht.symm.trans hu)
  refine ⟨t, ht, (inv_iff t).2 ⟨hok, fun hbusy => ?_⟩⟩
  rw [hended.idle] at hbusy
  cases hbusy

/-! ### Points (10_state.md R22) -/

theorem validPoint_neutral : ValidPoint Point.neutral := ⟨0, 1, represents_pointNeutral⟩

theorem validPoint_padd {P Q : Point} (hP : ValidPoint P) (hQ : ValidPoint Q) : ValidPoint (padd P Q) :=
  (sameAffine_padd hP.sameAffine_self hQ.sameAffine_self).valid

theorem validPoint_pdbl {P : Point} (hP : ValidPoint P) : ValidPoint (pdbl P) :=
  (sameAffine_pdbl hP.sameAffine_self).valid

theorem validPoint_pneg {P : Point} (hP : ValidPoint P) : ValidPoint (pneg P) :=
  (sameAffine_pneg hP.sameAffine_self).valid

theorem validPoint_smul {P : Point} (hP : ValidPoint P) (n bits : Nat) : ValidPoint (smul P n bits) :=
  (sameAffine_smul hP.sameAffine_self n bits).valid

theorem validPoint_of_pfaf {x y : Fe} {P : Point} (h : pfaf x y = some P) : ValidPoint P := by
  by_cases hcurve : CurveEq (Fe.toZ x) (Fe.toZ y)
  · rw [pfaf_of_curveEq hcurve, Option.some.injEq] at h
    exact h ▸ ⟨_, _, represents_ofAffine hcurve⟩
  · rw [pfaf_of_not_curveEq hcurve] at h
    cases h

theorem validPoint_of_pdec {b : List Byte} {P : Point} (hb : b.length = 32) (h : pdec b = some P) : ValidPoint P := by
  rcases pdec_cases hb with ⟨x, y, hdec, hsome⟩ | ⟨hnone, -⟩
  · rw [hsome, Option.some.injEq] at h
    exact h ▸ ⟨_, _, represents_ofAffine hdec.curve⟩
  · rw [hnone] at h
    cases h

theorem pointsValid_writeP {s : State} (h : PointsValid s) (d : PReg) {P : Point} (hP : ValidPoint P) :
    PointsValid (s.writeP d P) := by
  intro r
  rw [readP_writeP]
  split
  · exact hP
  · exact h r

/-- A command that has written a valid point has completed with valid points. -/
theorem nextMeets_complete_writeP {s : State} (h : PointsValid s) (d : PReg) {P : Point} (hP : ValidPoint P) :
    NextMeets PointsValid (.next ((s.writeP d P).complete .ok)) :=
  ⟨_, rfl, fun r => pointsValid_writeP h d hP r⟩

/-- A command that does not write P. -/
theorem nextMeets_complete_of_p_eq {s u : State} (e : ResultCode) (h : PointsValid s) (hp : u.p = s.p) :
    NextMeets PointsValid (.next (u.complete e)) := by
  refine ⟨_, rfl, fun r => ?_⟩
  rw [readP_complete, State.readP, hp]
  exact h r

theorem nextMeets_complete_of_scrubbed {u : State} (e : ResultCode) (h : Scrubbed u) :
    NextMeets PointsValid (.next (u.complete e)) :=
  ⟨_, rfl, fun r => (scrubbed_complete e h).p r ▸ validPoint_neutral⟩

/-- CLR scrubs, whatever it writes elsewhere (43_sequencer.md R230). -/
theorem scrubbed_cleared (s : State) (xsk : Vector Byte 64) (mem : Memory) (msglen : Word) :
    Scrubbed { s.scrub with xsk := xsk, mem := mem, msglen := msglen } :=
  ⟨(scrubbed_scrub s).f, (scrubbed_scrub s).p, rfl, rfl, rfl, rfl⟩

/-- Every command writes valid points from valid points. -/
theorem exec_keeps_pointsValid (i : Instr) {s : State} (h : PointsValid s) : NextMeets PointsValid (exec i s) := by
  have hill : NextMeets PointsValid (.next s.illegal) := ⟨_, rfl, h⟩
  have hlength : NextMeets PointsValid (.next (s.complete .badLength)) := ⟨_, rfl, h⟩
  cases i with
  | fsqrt d e a =>
    refine nextMeets_ite (fun _ => hill) fun _ => ?_
    split
    · exact nextMeets_complete_of_p_eq _ h (by simp)
    · exact nextMeets_complete_of_p_eq _ h (by simp)
  | padd d a b => exact nextMeets_complete_writeP h d (validPoint_padd (h a) (h b))
  | pdbl d a => exact nextMeets_complete_writeP h d (validPoint_pdbl (h a))
  | pneg d a => exact nextMeets_complete_writeP h d (validPoint_pneg (h a))
  | pmov d a => exact nextMeets_complete_writeP h d (h a)
  | pldc d c => exact nextMeets_complete_writeP h d (validPoint_pointConst c)
  | smul d a w => exact nextMeets_complete_writeP h d (validPoint_smul (h a) _ _)
  | pfaf d a b =>
    cases hpoint : pfaf (s.readF a) (s.readF b) with
    | none => exact ⟨_, exec_pfaf_of_none d hpoint, h⟩
    | some P => exact ⟨_, exec_pfaf_of_some d hpoint, pointsValid_writeP h d (validPoint_of_pfaf hpoint)⟩
  | pdec d sl =>
    cases hpoint : pdec (s.readSlot sl) with
    | none => exact ⟨_, exec_pdec_of_none d hpoint, h⟩
    | some P =>
      exact ⟨_, exec_pdec_of_some d hpoint, pointsValid_writeP h d (validPoint_of_pdec (length_readSlot s sl) hpoint)⟩
  | paff d e a => exact nextMeets_ite (fun _ => hill) fun _ => nextMeets_complete_of_p_eq _ h (by simp)
  | kld sl w | kst sl w | xld sl | xst sl =>
    exact nextMeets_ite (fun _ => nextMeets_complete_of_p_eq _ h (by simp)) fun _ => hill
  | derive => exact nextMeets_complete_of_scrubbed _ (scrubbed_deriveBody s)
  | sign | signp =>
    exact nextMeets_ite (fun _ => nextMeets_complete_of_scrubbed _ (scrubbed_signBody _)) fun _ => hlength
  | verify => exact nextMeets_ite (fun _ => nextMeets_complete_of_scrubbed _ (scrubbed_scrub _)) fun _ => hlength
  | clr => exact nextMeets_complete_of_scrubbed _ (scrubbed_cleared s _ _ _)
  | _ => exact nextMeets_complete_of_p_eq _ h (by simp)

/-- The window does not reach P (20_memory.md R69). -/
theorem takeEvent_access_p (s : State) (a : HostAccess) : (s.takeEvent (.access a)).p = s.p := by
  rw [takeEvent_access]
  obtain ⟨-, hp, -⟩ := serve_keeps_datapath
    { s with inputs := s.inputs.tail, busyLeft := if s.busy then s.busyLeft - 1 else s.busyLeft } a
  exact hp

theorem pointsValid_takeEvent_access {s : State} (a : HostAccess) (h : PointsValid s) : PointsValid (s.takeEvent (.access a)) := by
  intro r
  rw [State.readP, takeEvent_access_p]
  exact h r

theorem pointsValid_reset : PointsValid State.reset := fun r => readP_reset r ▸ validPoint_neutral

/-! ### The obligations -/

/-- Settles O54: nothing is listed or latched, and every point register holds the neutral. -/
theorem resetMeetsTheInvariants : Obligations.ResetMeetsTheInvariants :=
  ⟨(inv_iff _).2 ⟨memoryOk_nil, fun _ => rfl⟩, pointsValid_reset⟩

/-- Settles O55: commands store inside IO and leave nothing latched; an access stores inside IO or MSG, and latching clears DONE. -/
theorem everyStepKeepsTheInvariant : Obligations.EveryStepKeepsTheInvariant := by
  unfold Obligations.EveryStepKeepsTheInvariant
  intro s t
  refine step_keeps (fun s _ => ?_) (fun s a => inv_takeEvent_access a) (fun s h => ?_) fun i s => exec_keeps_inv i
  · exact (inv_iff _).2 ⟨memoryOk_nil, fun _ => rfl⟩
  · exact (inv_iff _).2 ⟨((inv_iff s).1 h).1, fun hbusy => by cases hbusy⟩

/-- Settles O56: the addition law is complete, so sums, doubles and multiples of valid points are valid; what is decoded or loaded is
on the curve. -/
theorem everyStepKeepsPointsValid : Obligations.EveryStepKeepsPointsValid := by
  unfold Obligations.EveryStepKeepsPointsValid
  intro s t
  exact step_keeps (fun _ _ => pointsValid_reset) (fun s a => pointsValid_takeEvent_access a) (fun _ h => h)
    fun i s => exec_keeps_pointsValid i

end Sys2Proof.Machine
end

section
/-!
PROOFS. Who writes what (10_state.md sections 2 to 6): what each command may write, the proof that it writes nothing else, and the
"Written by" lists.
-/

namespace Sys2Proof.Machine

/-- What a command may write, operand by operand. -/
def commandTouches : Instr → Touches
  | .fadd d _ _ | .fsub d _ _ | .fmul d _ _ | .fneg d _ | .fsqr d _ | .finv d _ | .fexp d _ | .fmov d _ | .fldc d _ | .fld d _ =>
    { f := fun r => r = d }
  | .fsqrt d e _ => { f := fun r => r = d ∨ r = e, valid := true }
  | .paff d e _ => { f := fun r => r = d ∨ r = e }
  | .feq _ _ | .peq _ _ => { eq := true }
  | .fpar _ => { even := true }
  | .padd d _ _ | .pdbl d _ | .pneg d _ | .pmov d _ | .pldc d _ | .smul d _ _ => { p := fun r => r = d }
  | .pfaf d _ _ | .pdec d _ => { p := fun r => r = d, valid := true }
  | .fst _ sl | .penc _ sl => { bytes := within (slotOffset sl) 32 }
  | .kld _ _ => { k := true }
  | .kst sl w => { bytes := within (slotOffset sl) (Width.bytes w) }
  | .xld _ => { xsk := true }
  | .xst sl => { bytes := within (slotOffset sl) 64 }
  | .derive => { scrubTouches with bytes := within (slotOffset 2) 32, xsk := true, hashSent := true }
  | .sign => { scrubTouches with bytes := within (slotOffset 0) 96, xsk := true, hashSent := true }
  | .signp => { scrubTouches with bytes := within (slotOffset 0) 64, hashSent := true }
  | .verify => { scrubTouches with hashSent := true }
  | .clr => { scrubTouches with bytes := fun _ => true, xsk := true, msglen := true }

theorem unchanged_of_nothing {s t : State} (w : Touches) (h : Unchanged {} s t) : Unchanged w s t where
  f r _ := h.f r rfl
  p r _ := h.p r rfl
  bytes a _ := h.bytes a rfl
  k _ := h.k rfl
  xsk _ := h.xsk rfl
  msglen _ := h.msglen rfl
  valid _ := h.valid rfl
  eq _ := h.eq rfl
  even _ := h.even rfl
  hashSent _ := h.hashSent rfl
  ill := h.ill
  inputs := h.inputs
  replies := h.replies
  busyLeft := h.busyLeft
  latches := h.latches

theorem nextMeets_lengthCheck {s : State} {w : Touches} {r : Result} (h : NextMeets (Unchanged w s) r) :
    NextMeets (Unchanged w s) (if s.lengthOk then r else .next (s.complete .badLength)) :=
  nextMeets_ite (fun _ => h) fun _ => nextMeets_next (unchanged_of_nothing w (unchanged_complete s _))

/-- A well-formed command writes what its operands name and nothing else. -/
theorem exec_unchanged {i : Instr} (hwf : i.wf = true) {s : State} (h : Memory.wf s.mem) :
    NextMeets (Unchanged (commandTouches i) s) (exec i s) := by
  cases i with
  | fadd d a b | fsub d a b | fmul d a b | fneg d a | fsqr d a | finv d a | fexp d a | fmov d a | fldc d a | fld d a =>
    exact nextMeets_next (unchanged_complete_writeF s _ d _)
  | fsqrt d e a =>
    have hne : d ≠ e := of_decide_eq_true hwf
    cases hroot : fsqrt (s.readF a) with
    | none => exact ⟨_, exec_fsqrt_of_none hne hroot, unchanged_no_root s d e⟩
    | some roots => exact ⟨_, exec_fsqrt_of_some hne hroot, unchanged_roots s d e _ _⟩
  | paff d e a => exact ⟨_, exec_paff a s (of_decide_eq_true hwf), unchanged_complete_writeF_writeF s _ d e _ _⟩
  | feq a b | peq a b => exact nextMeets_next (unchanged_complete_writeEq s _ _)
  | fpar a => exact nextMeets_next (unchanged_complete_writeEven s _ _)
  | padd d a b | pdbl d a | pneg d a | pmov d a | pldc d c | smul d a w =>
    exact nextMeets_next (unchanged_complete_writeP s _ d _)
  | pfaf d a b =>
    cases hpoint : pfaf (s.readF a) (s.readF b) with
    | none => exact ⟨_, exec_pfaf_of_none d hpoint, unchanged_complete_writeValid s _ d _⟩
    | some P => exact ⟨_, exec_pfaf_of_some d hpoint, unchanged_complete_writeP_writeValid s _ d _ _⟩
  | pdec d sl =>
    cases hpoint : pdec (s.readSlot sl) with
    | none => exact ⟨_, exec_pdec_of_none d hpoint, unchanged_complete_writeValid s _ d _⟩
    | some P => exact ⟨_, exec_pdec_of_some d hpoint, unchanged_complete_writeP_writeValid s _ d _ _⟩
  | fst a sl => exact nextMeets_next (unchanged_complete_writeSlot s _ sl h (length_leBytes _ _))
  | penc a sl => exact nextMeets_next (unchanged_complete_writeSlot s _ sl h (length_penc _))
  | kld sl w => exact ⟨_, exec_kld_of_fits hwf, unchanged_complete_writeK s _ _⟩
  | kst sl w => exact ⟨_, exec_kst_of_fits hwf, unchanged_complete_writeSlot s _ sl h (length_leBytes _ _)⟩
  | xld sl => exact ⟨_, exec_xld_of_fits hwf, unchanged_complete_writeXsk s _ _⟩
  | xst sl => exact ⟨_, exec_xst_of_fits hwf, unchanged_complete_writeSlot s _ sl h (by simp)⟩
  | derive => exact ⟨_, exec_derive s, unchanged_complete_deriveBody s _ h⟩
  | sign => exact nextMeets_lengthCheck (nextMeets_next (unchanged_complete_signBody_deriveBody _ h))
  | signp => exact nextMeets_lengthCheck (nextMeets_next (unchanged_complete_signBody h _))
  | verify => exact nextMeets_lengthCheck (nextMeets_next (unchanged_complete_scrub_send s _ _))
  | clr =>
    refine nextMeets_next ?_
    constructor <;> simp [commandTouches, scrubTouches]

/-! ### From frames to whole registers and memories -/

theorem f_eq_of_readF {s t : State} (h : ∀ r, t.readF r = s.readF r) : t.f = s.f :=
  Vector.ext fun i hi => h ⟨i, hi⟩

theorem p_eq_of_readP {s t : State} (h : ∀ r, t.readP r = s.readP r) : t.p = s.p :=
  Vector.ext fun i hi => h ⟨i, hi⟩

/-- A command's effect with its frame: the memory stays canonical, so where no byte changes no cell does. -/
theorem exec_frame {i : Instr} {s t : State} (hwf : i.wf = true) (hmem : Memory.wf s.mem) (hexec : exec i s = .next t) :
    Unchanged (commandTouches i) s t ∧ Memory.wf t.mem := by
  obtain ⟨u, hu, hframe⟩ := exec_unchanged hwf hmem
  obtain ⟨v, hv, hwf'⟩ := exec_keeps_memory keptBySlotWrites_wf i hmem
  obtain rfl := Host.Outcome.next.inj (hu.symm.trans hexec)
  obtain rfl := Host.Outcome.next.inj (hv.symm.trans hexec)
  exact ⟨hframe, hwf'⟩

/-! ### The "Written by" lists (10_state.md R21 to R29) -/

section
variable {i : Instr}

theorem touches_f (h : i.opcode ∉ [.FADD, .FSUB, .FNEG, .FMUL, .FSQR, .FINV, .FEXP, .FSQRT, .FMOV, .FLDC, .FLD, .PAFF, .DERIVE, .SIGN,
    .SIGNP, .VERIFY, .CLR]) (r : FReg) : (commandTouches i).f r = false := by
  cases i with
  | feq _ _ | fpar _ | fst _ _ | padd _ _ _ | pdbl _ _ | pneg _ _ | peq _ _ | pmov _ _ | pldc _ _ | pfaf _ _ _ | pdec _ _
  | penc _ _ | smul _ _ _ | kld _ _ | kst _ _ | xld _ | xst _ => rfl
  | _ => simp [Instr.opcode] at h

theorem touches_p (h : i.opcode ∉ [.PADD, .PDBL, .PNEG, .PMOV, .PLDC, .PFAF, .PDEC, .SMUL, .DERIVE, .SIGN, .SIGNP, .VERIFY, .CLR])
    (r : PReg) : (commandTouches i).p r = false := by
  cases i with
  | padd _ _ _ | pdbl _ _ | pneg _ _ | pmov _ _ | pldc _ _ | pfaf _ _ _ | pdec _ _ | smul _ _ _ | derive | sign | signp | verify
  | clr => simp [Instr.opcode] at h
  | _ => rfl

theorem touches_bytes (h : i.opcode ∉ [.FST, .PENC, .KST, .XST, .DERIVE, .SIGN, .SIGNP, .CLR]) (a : Nat) :
    (commandTouches i).bytes a = false := by
  cases i with
  | fst _ _ | penc _ _ | kst _ _ | xst _ | derive | sign | signp | clr => simp [Instr.opcode] at h
  | _ => rfl

/-- No command but CLR stores above IO (10_state.md R27). -/
theorem touches_bytes_of_msg (h : i.opcode ≠ .CLR) {a : Nat} (ha : 0x1000 ≤ a) : (commandTouches i).bytes a = false := by
  have habove (off n : Nat) (hend : off + n ≤ 0x1000) : within off n a = false := by
    simp only [within, Bool.and_eq_false_iff, decide_eq_false_iff_not]
    omega
  have hslot (sl : Slot) (n : Nat) (hn : n ≤ 64) : within (slotOffset sl.val) n a = false := by
    have hsl := sl.isLt
    exact habove _ _ (by simp only [slotOffset]; omega)
  cases i with
  | fst _ sl | penc _ sl => exact hslot sl 32 (by decide)
  | kst sl w => exact hslot sl _ (Width.bytes_le w)
  | xst sl => exact hslot sl 64 (by decide)
  | derive | sign | signp => exact habove _ _ (by decide)
  | clr => exact absurd rfl h
  | _ => rfl

variable (i)

theorem touches_k : (commandTouches i).k = decide (i.opcode ∈ [.KLD, .DERIVE, .SIGN, .SIGNP, .VERIFY, .CLR]) := by
  cases i <;> rfl

theorem touches_xsk : (commandTouches i).xsk = decide (i.opcode ∈ [.DERIVE, .SIGN, .XLD, .CLR]) := by
  cases i <;> rfl

theorem touches_msglen : (commandTouches i).msglen = decide (i.opcode = .CLR) := by
  cases i <;> rfl

theorem touches_valid : (commandTouches i).valid =
    decide (i.opcode ∈ [.FSQRT, .PFAF, .PDEC, .DERIVE, .SIGN, .SIGNP, .VERIFY, .CLR]) := by
  cases i <;> rfl

theorem touches_eq : (commandTouches i).eq = decide (i.opcode ∈ [.FEQ, .PEQ, .DERIVE, .SIGN, .SIGNP, .VERIFY, .CLR]) := by
  cases i <;> rfl

theorem touches_even : (commandTouches i).even = decide (i.opcode ∈ [.FPAR, .DERIVE, .SIGN, .SIGNP, .VERIFY, .CLR]) := by
  cases i <;> rfl

end

/-! ### The obligation -/

/-- Settles O53: each register's list is read off what the commands may write. -/
theorem onlyNamedCommandsWriteARegister : Obligations.OnlyNamedCommandsWriteARegister := by
  unfold Obligations.OnlyNamedCommandsWriteARegister
  intro i s t hwf hmem hexec
  obtain ⟨hu, hwf'⟩ := exec_frame hwf hmem hexec
  refine ⟨fun h => f_eq_of_readF fun r => hu.f r (touches_f h r), fun h => p_eq_of_readP fun r => hu.p r (touches_p h r),
    fun h => hu.k ((touches_k i).trans (decide_eq_false h)), fun h => hu.xsk ((touches_xsk i).trans (decide_eq_false h)),
    fun h => ⟨hu.msglen ((touches_msglen i).trans (decide_eq_false h)), fun a ha => hu.bytes a (touches_bytes_of_msg h ha)⟩,
    fun h => Memory.ext_of_wf hwf' hmem fun a => hu.bytes a (touches_bytes h a),
    fun h => hu.valid ((touches_valid i).trans (decide_eq_false h)), fun h => hu.eq ((touches_eq i).trans (decide_eq_false h)),
    fun h => hu.even ((touches_even i).trans (decide_eq_false h)), hu.ill, hu.inputs, hu.replies, hu.latches⟩

end Sys2Proof.Machine
end

section
/-!
PROOFS. The tuple of a point register is not observable (10_state.md R23): two states that differ only in the tuples, run side by side
through every command and every event.
-/

namespace Sys2Proof.Machine

/-! ### States that differ in their tuples -/

/-- The state with other tuples in P. -/
def State.withTuples (s : State) (p : Vector Point 4) : State := { s with p := p }

/-- `p` holds other tuples of the points of `s`. -/
def TuplesOf (s : State) (p : Vector Point 4) : Prop := ∀ r, SameAffine (s.readP r) ((s.withTuples p).readP r)

/-- Both outcomes are next states, and these differ only in their tuples. -/
def NextSameUpToTuples (r r' : Result) : Prop := ∃ t t', r = .next t ∧ r' = .next t' ∧ SameUpToTuples t t'

theorem SameUpToTuples.exists_withTuples {s s' : State} (h : SameUpToTuples s s') :
    ∃ p, s' = s.withTuples p ∧ TuplesOf s p := by
  have hrest : s' = s.withTuples s'.p := h.rest
  refine ⟨s'.p, hrest, fun r => ?_⟩
  rw [← hrest]
  exact h.points r

section
variable {s t : State} {p : Vector Point 4} (h : TuplesOf s p)
include h

/-- What leaves P alone keeps the tuples of each run. -/
theorem sameUpToTuples_of_p_eq (ht : t.p = s.p) : SameUpToTuples t (t.withTuples p) where
  rest := rfl
  points r := by
    have hread : t.readP r = s.readP r := by rw [State.readP, ht, ← State.readP]
    rw [hread]
    exact h r

theorem nextSame_of_p_eq (ht : t.p = s.p) : NextSameUpToTuples (.next t) (.next (t.withTuples p)) :=
  ⟨_, _, rfl, rfl, sameUpToTuples_of_p_eq h ht⟩

theorem sameUpToTuples_writeP (d : PReg) {P P' : Point} (hP : SameAffine P P') :
    SameUpToTuples (s.writeP d P) ((s.withTuples p).writeP d P') where
  rest := rfl
  points r := by
    rw [readP_writeP, readP_writeP]
    split
    · exact hP
    · exact h r

theorem nextSame_writeP (d : PReg) {P P' : Point} (hP : SameAffine P P') :
    NextSameUpToTuples (.next ((s.writeP d P).complete .ok)) (.next (((s.withTuples p).writeP d P').complete .ok)) :=
  ⟨_, _, rfl, rfl, rfl, (sameUpToTuples_writeP h d hP).points⟩

theorem nextSame_writeP_writeValid (d : PReg) {P : Point} (hP : ValidPoint P) :
    NextSameUpToTuples (.next (((s.writeP d P).writeValid true).complete .ok))
      (.next ((((s.withTuples p).writeP d P).writeValid true).complete .ok)) :=
  ⟨_, _, rfl, rfl, rfl, (sameUpToTuples_writeP h d hP.sameAffine_self).points⟩

/-! What a command computes from the affine points alone is one value in both runs. -/

theorem nextSame_writeEq {b b' : Bool} (hb : b = b') :
    NextSameUpToTuples (.next ((s.writeEq b).complete .ok)) (.next (((s.withTuples p).writeEq b').complete .ok)) := by
  subst hb
  exact nextSame_of_p_eq h rfl

theorem nextSame_writeSlot (sl : Slot) {b b' : List Byte} (hb : b = b') :
    NextSameUpToTuples (.next ((s.writeSlot sl b).complete .ok)) (.next (((s.withTuples p).writeSlot sl b').complete .ok)) := by
  subst hb
  exact nextSame_of_p_eq h rfl

theorem nextSame_writeF_writeF (d e : FReg) {xy xy' : Fe × Fe} (hxy : xy = xy') :
    NextSameUpToTuples (.next (((s.writeF d xy.1).writeF e xy.2).complete .ok))
      (.next ((((s.withTuples p).writeF d xy'.1).writeF e xy'.2).complete .ok)) := by
  subst hxy
  exact nextSame_of_p_eq h rfl

end

theorem sameUpToTuples_self {t : State} (h : PointsValid t) : SameUpToTuples t t :=
  ⟨rfl, fun r => (h r).sameAffine_self⟩

/-- What scrubs P has forgotten the tuples. -/
theorem nextSame_of_scrubbed {u : State} (e : ResultCode) (h : Scrubbed u) :
    NextSameUpToTuples (.next (u.complete e)) (.next (u.complete e)) :=
  ⟨_, _, rfl, rfl, sameUpToTuples_self fun r => (scrubbed_complete e h).p r ▸ validPoint_neutral⟩

theorem nextSame_scrub_send (s : State) (p : Vector Point 4) (e : ResultCode) (ms : List (List Byte)) :
    NextSameUpToTuples (.next ((s.send ms).scrub.complete e)) (.next (((s.withTuples p).send ms).scrub.complete e)) :=
  nextSame_of_scrubbed e (scrubbed_scrub (s.send ms))

theorem nextSame_ite {c : Prop} [Decidable c] {r₁ r₂ r₁' r₂' : Result} (h : NextSameUpToTuples r₁ r₁')
    (h' : NextSameUpToTuples r₂ r₂') : NextSameUpToTuples (if c then r₁ else r₂) (if c then r₁' else r₂') := by
  split
  · exact h
  · exact h'

/-! ### Commands -/

theorem exec_fsqrt_of_eq (d a : FReg) (s : State) : exec (.fsqrt d d a) s = .next s.illegal := if_pos rfl

section
variable {s : State} {p : Vector Point 4} (h : TuplesOf s p)
include h

theorem nextSame_exec (i : Instr) : NextSameUpToTuples (exec i s) (exec i (s.withTuples p)) := by
  have hill : NextSameUpToTuples (.next s.illegal) (.next (s.withTuples p).illegal) := nextSame_of_p_eq h (illegal_p s)
  have hlength : NextSameUpToTuples (.next (s.complete .badLength)) (.next ((s.withTuples p).complete .badLength)) :=
    nextSame_of_p_eq h (complete_p s _)
  cases i with
  | padd d a b => exact nextSame_writeP h d (sameAffine_padd (h a) (h b))
  | pdbl d a => exact nextSame_writeP h d (sameAffine_pdbl (h a))
  | pneg d a => exact nextSame_writeP h d (sameAffine_pneg (h a))
  | pmov d a => exact nextSame_writeP h d (h a)
  | pldc d c => exact nextSame_writeP h d (validPoint_pointConst c).sameAffine_self
  | smul d a w => exact nextSame_writeP h d (sameAffine_smul (h a) _ _)
  | peq a b => exact nextSame_writeEq h (SameAffine.peq_eq (h a) (h b))
  | penc a sl => exact nextSame_writeSlot h sl (h a).penc_eq
  | fst a sl => exact nextSame_writeSlot h sl rfl
  | paff d e a => exact nextSame_ite hill (nextSame_writeF_writeF h d e (h a).paff_eq)
  | pfaf d a b =>
    cases hpoint : pfaf (s.readF a) (s.readF b) with
    | none =>
      rw [exec_pfaf_of_none d hpoint, exec_pfaf_of_none (s := s.withTuples p) d hpoint]
      exact nextSame_of_p_eq h rfl
    | some P =>
      rw [exec_pfaf_of_some d hpoint, exec_pfaf_of_some (s := s.withTuples p) d hpoint]
      exact nextSame_writeP_writeValid h d (validPoint_of_pfaf hpoint)
  | pdec d sl =>
    cases hpoint : pdec (s.readSlot sl) with
    | none =>
      rw [exec_pdec_of_none d hpoint, exec_pdec_of_none (s := s.withTuples p) d hpoint]
      exact nextSame_of_p_eq h rfl
    | some P =>
      rw [exec_pdec_of_some d hpoint, exec_pdec_of_some (s := s.withTuples p) d hpoint]
      exact nextSame_writeP_writeValid h d (validPoint_of_pdec (length_readSlot s sl) hpoint)
  | fsqrt d e a =>
    by_cases hde : d = e
    · subst hde
      rw [exec_fsqrt_of_eq, exec_fsqrt_of_eq]
      exact hill
    cases hroot : fsqrt (s.readF a) with
    | none =>
      rw [exec_fsqrt_of_none hde hroot, exec_fsqrt_of_none (s := s.withTuples p) hde hroot]
      exact nextSame_of_p_eq h rfl
    | some roots =>
      rw [exec_fsqrt_of_some hde hroot, exec_fsqrt_of_some (s := s.withTuples p) hde hroot]
      exact nextSame_of_p_eq h rfl
  | kld sl w | kst sl w | xld sl | xst sl => exact nextSame_ite (nextSame_of_p_eq h (by simp)) hill
  | derive => exact nextSame_of_scrubbed _ (scrubbed_deriveBody s)
  | sign | signp => exact nextSame_ite (nextSame_of_scrubbed _ (scrubbed_signBody _)) hlength
  | verify => exact nextSame_ite (nextSame_scrub_send s p _ _) hlength
  | clr => exact nextSame_of_scrubbed _ (scrubbed_cleared s _ _ _)
  | _ => exact nextSame_of_p_eq h (by simp)

/-! ### Steps -/

omit h in
/-- The window does not see P (20_memory.md R69). -/
theorem takeEvent_access_withTuples (a : HostAccess) :
    (s.withTuples p).takeEvent (.access a) = (s.takeEvent (.access a)).withTuples p := by
  have hserve (u : State) : (u.withTuples p).serve a = (u.serve a).withTuples p := by
    obtain ⟨hf, -, hk, hxsk, -⟩ := serve_keeps_datapath u a
    calc (u.withTuples p).serve a = (u.serve a).withDatapath u.f p u.k u.xsk := serve_withDatapath u u.f p u.k u.xsk a
      _ = (u.serve a).withDatapath (u.serve a).f p (u.serve a).k (u.serve a).xsk := by rw [hf, hk, hxsk]
      _ = (u.serve a).withTuples p := rfl
  rw [takeEvent_access, takeEvent_access, ← hserve]
  rfl

theorem sameUpToTuples_takeEvent (e : HostEvent) : SameUpToTuples (s.takeEvent e) ((s.withTuples p).takeEvent e) := by
  cases e with
  | reset => exact sameUpToTuples_self pointsValid_reset
  | access a =>
    rw [takeEvent_access_withTuples]
    exact sameUpToTuples_of_p_eq h (takeEvent_access_p s a)

theorem nextSame_step : NextSameUpToTuples (step s) (step (s.withTuples p)) := by
  have hturn : (s.withTuples p).turn = s.turn := rfl
  rcases turn_cases s with ⟨-, -, hidle⟩ | ⟨e, -, -, hhost, -⟩ | ⟨w, -, hunit, -⟩
  · rw [step_of_idle hidle, step_of_idle (hturn.trans hidle)]
    exact nextSame_of_p_eq h rfl
  · rw [step_of_host hhost, step_of_host (hturn.trans hhost)]
    exact ⟨_, _, rfl, rfl, sameUpToTuples_takeEvent h e⟩
  · cases hw : decode w with
    | ok i =>
      rw [step_of_unit_ok hunit hw, step_of_unit_ok (hturn.trans hunit) hw]
      exact nextSame_exec h i
    | error e =>
      rw [step_of_unit_error hunit hw, step_of_unit_error (hturn.trans hunit) hw]
      exact nextSame_of_p_eq h (illegal_p s)

end

/-! ### The obligation -/

/-- Settles O57: side by side, every command that reads P computes the same from the affine points, or writes tuples of one affine
point. -/
theorem tuplesAreNotObservable : Obligations.TuplesAreNotObservable := by
  unfold Obligations.TuplesAreNotObservable
  intro s s' t t' h hstep hstep'
  obtain ⟨p, rfl, hp⟩ := h.exists_withTuples
  obtain ⟨u, u', hu, hu', hsame⟩ := nextSame_step hp
  obtain rfl := Host.Outcome.next.inj (hu.symm.trans hstep)
  obtain rfl := Host.Outcome.next.inj (hu'.symm.trans hstep')
  exact hsame

end Sys2Proof.Machine
end

section
/-!
PROOFS. Operation traces (70_reset_and_hazards.md R294 to R297): what a traced computation answers and which operations it records,
composed along `pure`, `perform` and `bind`; one lemma per traced function; the statements about the traces.
-/

namespace Sys2Proof.Machine

/-! ### What a traced computation answers and records -/

/-- The computation answers `a` and records exactly `tr` after what was recorded before. -/
def Runs {α : Type} (c : Traced α) (a : α) (tr : List DatapathOp) : Prop := ∀ ops, c ops = (a, ops ++ tr)

/-- The computation answers `a`, whatever it records: for those that end early. -/
def Computes {α : Type} (c : Traced α) (a : α) : Prop := ∃ tr, Runs c a tr

section
variable {α β : Type} {c : Traced α} {a : α} {tr tr' : List DatapathOp}

theorem runs_pure (a : α) : Runs (pure a) a [] := fun ops => by
  rw [List.append_nil]
  rfl

theorem runs_perform (op : DatapathOp) (a : α) : Runs (perform op a) a [op] := fun _ => rfl

theorem Runs.bind {f : α → Traced β} {b : β} (h : Runs c a tr) (hf : Runs (f a) b tr') : Runs (c >>= f) b (tr ++ tr') := by
  intro ops
  calc (c >>= f) ops = f (c ops).1 (c ops).2 := rfl
    _ = f a (ops ++ tr) := by rw [h ops]
    _ = (b, ops ++ (tr ++ tr')) := by rw [hf, List.append_assoc]

/-- One operation before the rest. -/
theorem Runs.cons {f : α → Traced β} {b : β} {op : DatapathOp} (h : Runs c a [op]) (hf : Runs (f a) b tr) :
    Runs (c >>= f) b (op :: tr) := h.bind hf

theorem Runs.map (h : Runs c a tr) (g : α → β) : Runs (c >>= fun x => pure (g x)) (g a) tr := by
  have hmap := h.bind (f := fun x => pure (g x)) (runs_pure (g a))
  rwa [List.append_nil] at hmap

theorem Runs.computes (h : Runs c a tr) : Computes c a := ⟨tr, h⟩

theorem computes_pure (a : α) : Computes (pure a) a := (runs_pure a).computes

theorem Computes.bind {f : α → Traced β} {b : β} (h : Computes c a) (hf : Computes (f a) b) : Computes (c >>= f) b := by
  obtain ⟨tr, h⟩ := h
  obtain ⟨tr', hf⟩ := hf
  exact (h.bind hf).computes

theorem Computes.map (h : Computes c a) (g : α → β) : Computes (c >>= fun x => pure (g x)) (g a) :=
  h.bind (computes_pure (g a))

theorem Runs.answer_nil (h : Runs c a tr) : (c []).1 = a := by rw [h []]

theorem Runs.trace_nil (h : Runs c a tr) : (c []).2 = tr := by rw [h [], List.nil_append]

end

/-! ### The field -/

section
variable (x y : Fe)

theorem runs_tFadd : Runs (tFadd x y) (fadd x y) [.fadd] := runs_perform _ _

theorem runs_tFsub : Runs (tFsub x y) (fsub x y) [.fsub] := runs_perform _ _

theorem runs_tFneg : Runs (tFneg x) (fneg x) [.fneg] := runs_perform _ _

theorem runs_tFmul : Runs (tFmul x y) (fmul x y) [.fmul] := runs_perform _ _

theorem runs_tFsqr : Runs (tFsqr x) (fsqr x) [.fsqr] := runs_perform _ _

theorem runs_tFinv : Runs (tFinv x) (finv x) [.finv] := runs_perform _ _

theorem runs_tFexp (n : Nat) : Runs (tFexp x n) (fexp x n) [.fexp] := runs_perform _ _

theorem runs_tFeq : Runs (tFeq x y) (feq x y) [.feq] := runs_perform _ _

/-- The multiply is performed for every bit; the bit only selects (R296). -/
theorem runs_tFexpLoop (n i : Nat) (r : Fe) :
    Runs (tFexpLoop x n i r) (fexpLoop x n i r) (List.replicate i [DatapathOp.fsqr, .fmul]).flatten := by
  induction i generalizing r with
  | zero => exact runs_pure r
  | succ i ih =>
    rw [List.replicate_succ, List.flatten_cons]
    exact (runs_tFsqr r).cons ((runs_tFmul (fsqr r) x).cons (ih _))

theorem runs_tFsqrt (a : Fe) : Runs (tFsqrt a) (fsqrt a) [.fexp, .fmul, .fsqr, .feq, .fsqr, .feq, .fneg] :=
  (runs_tFexp _ _).cons <| (runs_tFmul _ _).cons <| (runs_tFsqr _).cons <| (runs_tFeq _ _).cons <| (runs_tFsqr _).cons <|
    (runs_tFeq _ _).cons <| (runs_tFneg _).cons <| runs_pure _

end

/-! ### Points -/

section
variable (P Q : Point)

theorem runs_tPadd : Runs (tPadd P Q) (padd P Q) [.padd] := runs_perform _ _

theorem runs_tPdbl : Runs (tPdbl P) (pdbl P) [.pdbl] := runs_perform _ _

theorem runs_tPneg : Runs (tPneg P) (pneg P) [.fneg, .fneg] := (runs_tFneg _).cons <| (runs_tFneg _).cons <| runs_pure _

theorem runs_tPaff : Runs (tPaff P) (paff P) [.finv, .fmul, .fmul] :=
  (runs_tFinv _).cons <| (runs_tFmul _ _).cons <| (runs_tFmul _ _).cons <| runs_pure _

theorem runs_tPeq : Runs (tPeq P Q) (peq P Q) [.finv, .fmul, .fmul, .finv, .fmul, .fmul, .feq, .feq] :=
  (runs_tPaff P).bind <| (runs_tPaff Q).bind <| (runs_tFeq _ _).cons <| (runs_tFeq _ _).cons <| runs_pure _

theorem runs_tPenc : Runs (tPenc P) (penc P) [.finv, .fmul, .fmul] := (runs_tPaff P).map _

/-- One addition and one doubling for every bit; the bit only assigns (R294). -/
theorem runs_tLadder (n i : Nat) (R₀ R₁ : Point) :
    Runs (tLadder n i R₀ R₁) (ladder n i R₀ R₁) (List.replicate i [DatapathOp.padd, .pdbl]).flatten := by
  induction i generalizing R₀ R₁ with
  | zero => exact runs_pure R₀
  | succ i ih =>
    rw [List.replicate_succ, List.flatten_cons, tLadder, ladder]
    refine (runs_tPadd R₀ R₁).cons ((runs_tPdbl _).cons ?_)
    cases n.testBit i
    · exact ih _ _
    · exact ih _ _

theorem runs_tSmul (n bits : Nat) :
    Runs (tSmul P n bits) (smul P n bits) (List.replicate bits [DatapathOp.padd, .pdbl]).flatten := runs_tLadder n bits _ P

theorem runs_tOnCurve (x y : Fe) : Runs (tOnCurve x y) (onCurve x y) [.fsqr, .fsqr, .fsub, .fmul, .fmul, .fadd, .feq] :=
  (runs_tFsqr x).cons <| (runs_tFsqr y).cons <| (runs_tFsub _ _).cons <| (runs_tFmul _ _).cons <| (runs_tFmul _ _).cons <|
    (runs_tFadd _ _).cons <| runs_tFeq _ _

/-- The coordinate product is computed only for a point of the curve. -/
theorem computes_tPfaf (x y : Fe) : Computes (tPfaf x y) (pfaf x y) := by
  refine (runs_tOnCurve x y).computes.bind ?_
  rw [pfaf]
  cases onCurve x y
  · exact computes_pure none
  · exact (runs_tFmul x y).computes.bind (computes_pure _)

/-- The straight line from y to x² (R170). -/
theorem computes_recoverXX {β : Type} {f : Fe → Traced β} {r : β} {y : Fe} (h : Computes (f (recoverXX y)) r) : Computes (do
    let y2 ← tFsqr y
    let u ← tFsub y2 (Fe.ofNat 1)
    let y2' ← tFsqr y
    let dy ← tFmul curveD y2'
    let w ← tFadd dy (Fe.ofNat 1)
    let wi ← tFinv w
    let t ← tFmul u wi
    f t) r :=
  (runs_tFsqr _).computes.bind <| (runs_tFsub _ _).computes.bind <| (runs_tFsqr _).computes.bind <|
    (runs_tFmul _ _).computes.bind <| (runs_tFadd _ _).computes.bind <| (runs_tFinv _).computes.bind <|
    (runs_tFmul _ _).computes.bind h

/-- Decoding ends early at y ≥ p, at no square root, and at x = 0 with the sign bit (R296). -/
theorem computes_tPdec (b : List Byte) : Computes (tPdec b) (pdec b) := by
  simp only [tPdec, pdec]
  generalize leInt b = v
  split
  · exact computes_pure none
  · generalize Fe.ofNat (v % 2 ^ 255) = y, v.testBit 255 = sign
    refine computes_recoverXX ((runs_tFsqrt _).computes.bind ?_)
    cases fsqrt _ with
    | none => exact computes_pure none
    | some roots =>
      refine (runs_tFeq _ _).computes.bind ?_
      dsimp only
      split
      · exact computes_pure none
      · exact (runs_tFmul _ _).computes.bind (computes_pure _)

end

/-! ### The sequencer -/

theorem runs_tHash (m : List Byte) : Runs (tHash m) (hashOf m) [.hash m.length] := runs_perform _ _

/-- The ladder on BASE and the encoding of its result (R223, R227). -/
def basePointOps : List DatapathOp := (List.replicate 256 [DatapathOp.padd, .pdbl]).flatten ++ [.finv, .fmul, .fmul]

theorem runs_tDeriveKey (seed : List Byte) : Runs (tDeriveKey seed) (deriveKey seed) (.hash seed.length :: basePointOps) :=
  (runs_tHash seed).cons <| (runs_tSmul _ _ _).bind <| (runs_tPenc _).map _

theorem runs_tDeriveBody (s : State) : Runs (tDeriveBody s) s.deriveBody (.hash 32 :: basePointOps) := by
  rw [← length_readSlot s slotSeed]
  exact (runs_tDeriveKey _).map _

/-- The trace of the body of SIGNP, from MSGLEN alone (R297). -/
def signOps (msglen : BitVec 32) : List DatapathOp :=
  .hash (32 + msglen.toNat) :: (basePointOps ++ [.hash (32 + 32 + msglen.toNat)])

theorem length_xskNonceKey (s : State) : s.xskNonceKey.length = 32 := by simp [State.xskNonceKey]

theorem runs_tSignBody (s : State) : Runs (tSignBody s) s.signBody (signOps s.msglen) := by
  have hnonce : (s.xskNonceKey ++ s.message).length = 32 + s.msglen.toNat := by
    rw [List.length_append, length_xskNonceKey, length_message]
  have hchallenge (P : Point) : (penc P ++ s.readSlot slotKey ++ s.message).length = 32 + 32 + s.msglen.toNat := by
    rw [List.length_append, List.length_append, length_penc, length_readSlot, length_message]
  rw [signOps, basePointOps, List.append_assoc, ← hnonce,
    ← hchallenge (smul basePoint (nonceScalar s.xskNonceKey s.message) 256)]
  exact (runs_tHash _).cons <| (runs_tSmul _ _ _).bind <| (runs_tPenc _).bind <| (runs_tHash _).map _

theorem computes_tVerifyResult (Rb Sb Ab m : List Byte) :
    Computes (tVerifyResult Rb Sb Ab m) (verifyResult Rb Sb Ab m, verifyRequests Rb Sb Ab m) := by
  refine (computes_tPdec Rb).bind ?_
  cases hR : pdec Rb with
  | none =>
    obtain ⟨hresult, hrequests⟩ := verify_of_error m (verifyPoints_of_no_R (Sb := Sb) (Ab := Ab) hR)
    rw [hresult, hrequests]
    exact computes_pure _
  | some R =>
  dsimp only
  split
  next hS =>
    obtain ⟨hresult, hrequests⟩ := verify_of_error m (verifyPoints_of_large_S (Ab := Ab) hR (by simpa using hS))
    rw [hresult, hrequests]
    exact computes_pure _
  next hS =>
  refine (computes_tPdec Ab).bind ?_
  cases hA : pdec Ab with
  | none =>
    obtain ⟨hresult, hrequests⟩ := verify_of_error m (verifyPoints_of_no_A hR (by simpa using hS) hA)
    rw [hresult, hrequests]
    exact computes_pure _
  | some A =>
    obtain ⟨hresult, hrequests⟩ := verify_of_ok m (verifyPoints_of_A hR (by simpa using hS) hA)
    rw [hresult, hrequests]
    exact (runs_tHash _).computes.bind <| (runs_tSmul _ _ _).computes.bind <| (runs_tSmul _ _ _).computes.bind <|
      (runs_tPadd _ _).computes.bind <| (runs_tPeq _ _).computes.bind <| computes_pure _

/-! ### Commands -/

theorem next_of_computes {c : Traced State} {t : State} (h : Computes c t) : (.next t : Result) = .next (c []).1 := by
  obtain ⟨tr, h⟩ := h
  rw [h.answer_nil]

theorem next_ite {q : Prop} [Decidable q] {r r' : Result} {c c' : Traced State} (h : r = .next (c []).1)
    (h' : r' = .next (c' []).1) : (if q then r else r') = .next ((if q then c else c') []).1 := by
  split
  · exact h
  · exact h'

theorem next_pure_ite (q : Prop) [Decidable q] (t t' : State) :
    (if q then .next t else .next t' : Result) = .next ((pure (if q then t else t') : Traced State) []).1 := by
  split <;> rfl

/-- With a root and without one the same operations are performed (R296). -/
theorem runs_tExec_fsqrt (s : State) (a : FReg) {d e : FReg} (hne : d ≠ e) : ∃ t, exec (.fsqrt d e a) s = .next t ∧
    Runs (tExec (.fsqrt d e a) s) t [.fexp, .fmul, .fsqr, .feq, .fsqr, .feq, .fneg] := by
  have hrun := runs_tFsqrt (s.readF a)
  rw [tExec, if_neg hne]
  cases hroot : fsqrt (s.readF a) with
  | none =>
    rw [hroot] at hrun
    exact ⟨_, exec_fsqrt_of_none hne hroot, hrun.bind (runs_pure _)⟩
  | some roots =>
    rw [hroot] at hrun
    exact ⟨_, exec_fsqrt_of_some hne hroot, hrun.bind (runs_pure _)⟩

/-- Settles O58, command by command. -/
theorem tracedRunIsTheRun : Obligations.TracedRunIsTheRun := by
  unfold Obligations.TracedRunIsTheRun
  intro i s
  rw [tracedState]
  cases i with
  | fadd d a b => exact next_of_computes ((runs_tFadd _ _).map _).computes
  | fsub d a b => exact next_of_computes ((runs_tFsub _ _).map _).computes
  | fneg d a => exact next_of_computes ((runs_tFneg _).map _).computes
  | fmul d a b => exact next_of_computes ((runs_tFmul _ _).map _).computes
  | fsqr d a => exact next_of_computes ((runs_tFsqr _).map _).computes
  | finv d a => exact next_of_computes ((runs_tFinv _).map _).computes
  | fexp d a => exact next_of_computes ((runs_tFexpLoop _ _ _ _).map _).computes
  | fsqrt d e a =>
    by_cases hde : d = e
    · rw [hde, exec_fsqrt_of_eq, tExec, if_pos rfl]
      rfl
    · obtain ⟨t, ht, hrun⟩ := runs_tExec_fsqrt s a hde
      rw [ht, hrun.answer_nil]
  | feq a b => exact next_of_computes ((runs_tFeq _ _).map _).computes
  | padd d a b => exact next_of_computes ((runs_tPadd _ _).map _).computes
  | pdbl d a => exact next_of_computes ((runs_tPdbl _).map _).computes
  | pneg d a => exact next_of_computes ((runs_tPneg _).map _).computes
  | peq a b => exact next_of_computes ((runs_tPeq _ _).map _).computes
  | paff d e a => exact next_ite rfl (next_of_computes ((runs_tPaff _).map _).computes)
  | pfaf d a b =>
    have hrun := computes_tPfaf (s.readF a) (s.readF b)
    cases hpoint : pfaf (s.readF a) (s.readF b) with
    | none =>
      rw [hpoint] at hrun
      rw [exec_pfaf_of_none d hpoint]
      exact next_of_computes (hrun.bind (computes_pure _))
    | some P =>
      rw [hpoint] at hrun
      rw [exec_pfaf_of_some d hpoint]
      exact next_of_computes (hrun.bind (computes_pure _))
  | pdec d sl =>
    have hrun := computes_tPdec (s.readSlot sl)
    cases hpoint : pdec (s.readSlot sl) with
    | none =>
      rw [hpoint] at hrun
      rw [exec_pdec_of_none d hpoint]
      exact next_of_computes (hrun.bind (computes_pure _))
    | some P =>
      rw [hpoint] at hrun
      rw [exec_pdec_of_some d hpoint]
      exact next_of_computes (hrun.bind (computes_pure _))
  | penc a sl => exact next_of_computes ((runs_tPenc _).map _).computes
  | smul d a w => exact next_of_computes ((runs_tSmul _ _ _).map _).computes
  | kld sl w | kst sl w | xld sl | xst sl => exact next_pure_ite _ _ _
  | derive => exact next_of_computes ((runs_tDeriveBody s).map _).computes
  | sign =>
    exact next_ite (next_of_computes ((runs_tDeriveBody s).bind ((runs_tSignBody s.deriveBody).map _)).computes) rfl
  | signp => exact next_ite (next_of_computes ((runs_tSignBody s).map _).computes) rfl
  | verify =>
    have hrun := (computes_tVerifyResult (s.readSlot slotR) (s.readSlot slotS) (s.readSlot slotKey) s.message).map
      fun v => ((s.send v.2).scrub).complete v.1
    dsimp only at hrun
    rw [exec, execVerify, tExec]
    exact next_ite (next_of_computes hrun) rfl
  | fst a sl =>
    rw [tExec]
    rfl
  | _ => rfl

/-- Settles O59: each trace is a constant of the command, K included. -/
theorem datapathTracesAreFixed : Obligations.DatapathTracesAreFixed := by
  unfold Obligations.DatapathTracesAreFixed
  refine ⟨fun d a w s => ?_, fun d e a s hne => ?_, fun d a s => ((runs_tFexpLoop _ _ _ _).map _).trace_nil,
    fun a b s => ((runs_tFeq _ _).map _).trace_nil, fun a b s => ((runs_tPeq _ _).map _).trace_nil, fun P Q => rfl, fun P => rfl⟩
  · have htrace : operationTrace (.smul d a w) s = (List.replicate (Width.bits w) [DatapathOp.padd, .pdbl]).flatten :=
      ((runs_tSmul _ _ _).map _).trace_nil
    cases w
    · exact htrace
    · exact htrace
  · obtain ⟨t, -, hrun⟩ := runs_tExec_fsqrt s a hne
    exact hrun.trace_nil

/-! ### Signing -/

section
variable (s : State)

theorem operationTrace_derive : operationTrace .derive s = .hash 32 :: basePointOps := ((runs_tDeriveBody s).map _).trace_nil

theorem lengthOk_eq_of_msglen {s s' : State} (h : s.msglen = s'.msglen) : s.lengthOk = s'.lengthOk := by
  rw [State.lengthOk, State.lengthOk, h]

theorem deriveBody_msglen : s.deriveBody.msglen = s.msglen := by simp [deriveBody_eq]

theorem operationTrace_signp : operationTrace .signp s = if s.lengthOk then signOps s.msglen else [] := by
  rw [operationTrace, tExec]
  split
  · exact ((runs_tSignBody s).map _).trace_nil
  · rfl

theorem operationTrace_sign :
    operationTrace .sign s = if s.lengthOk then (.hash 32 :: basePointOps) ++ signOps s.msglen else [] := by
  rw [operationTrace, tExec, ← deriveBody_msglen]
  split
  · exact ((runs_tDeriveBody s).bind ((runs_tSignBody s.deriveBody).map _)).trace_nil
  · rfl

end

/-- Settles O60: each trace is a function of MSGLEN. -/
theorem signingTracesDependOnTheLengthOnly : Obligations.SigningTracesDependOnTheLengthOnly := by
  unfold Obligations.SigningTracesDependOnTheLengthOnly
  intro s s'
  refine ⟨by rw [operationTrace_derive, operationTrace_derive], fun hlen => ⟨?_, ?_⟩⟩
  · rw [operationTrace_signp, operationTrace_signp, lengthOk_eq_of_msglen hlen, hlen]
  · rw [operationTrace_sign, operationTrace_sign, lengthOk_eq_of_msglen hlen, hlen]

end Sys2Proof.Machine
end
